-- ==== Sys2Proof/Word.lean ====
section
/-!
DEFINITION. The word types of DSPFC-1 and the binary64 constants its rules name.

R13: every sample, coefficient, threshold, ratio, knee width and the `PEAK` value is an IEEE 754 binary64
number stored as its 64-bit pattern; R11 fixes the 64-bit data and 32-bit address widths.
-/

namespace Sys2Proof

/-- One byte of a 64-bit value as a byte-viewing Host sees it (R105). -/
abbrev Byte := BitVec 8

/-- The 64-bit value of one Host bus transaction (R106). -/
abbrev Word := BitVec 64

/-- A byte address of the Host bus space (R100). -/
abbrev Addr := BitVec 32

/-- A binary64 number as its bit pattern (R13): bit 63 sign, bits 62:52 biased exponent, bits 51:0 fraction. -/
abbrev F64 := BitVec 64

/-- `+0.0` (R14). -/
def f64Zero : F64 := 0x0000000000000000#64

/-- `1.0` (R14; the pattern stands in R50). -/
def f64One : F64 := 0x3FF0000000000000#64

/-- `0.5` (R14). -/
def f64Half : F64 := 0x3FE0000000000000#64

/-- `2.0` (R14). -/
def f64Two : F64 := 0x4000000000000000#64

/-- `zeros(n)` of R18: a sequence of `n` copies of `+0.0`. -/
def zeros (n : Nat) : List F64 := List.replicate n f64Zero

end Sys2Proof
end

