-- ==== Sys2Proof/Config.lean ====
section
/-!
DEFINITION. What an implementation fixes (R8 to R10) and the values the spec leaves open (R12, R122).

The three sizes are a record of plain data that `State` carries as its `PARAM` constants, so every statement
about all states is a statement for every legal implementation. The open values are opaque constants: nothing
in Lean can evaluate them.
-/

namespace Sys2Proof

/-- The implementation parameters. Each field ranges over exactly the legal values of its rule:
`N_MAX = nMaxPred + 1` in `1..65535` (R8), `T_MAX = tMaxPred + 1` in `1..8192` (R9) and `REC_MAX` in
`0..2^21` (R10). -/
structure Params where
  nMaxPred : Fin 65535
  tMaxPred : Fin 8192
  recMax : Fin 2097153
  deriving DecidableEq, Repr

/-- `N_MAX`, the largest block length and the size of `IN_BUF` and `OUT_BUF` (R8). -/
def Params.nMax (p : Params) : Nat := p.nMaxPred.val + 1

/-- `T_MAX`, the largest tap count of each FIR stage (R9). -/
def Params.tMax (p : Params) : Nat := p.tMaxPred.val + 1

/-- `REC_MAX`, the capacity of the recording buffer in samples (R10). -/
def Params.recCap (p : Params) : Nat := p.recMax.val

/-- The sizes `State.reset` has. DESIGN CHOICE (log 1), unsafe for statements about `State.reset` alone: the
spec leaves them OPEN; these are the ones of its command and bus vectors (95 §8), `N_MAX = 8`, `T_MAX = 4`,
`REC_MAX = 8`. No statement rests on them. -/
def Config.params : Params := ⟨⟨7, by decide⟩, ⟨3, by decide⟩, ⟨8, by decide⟩⟩

/-- The four rounding operations of R14, as an index of `Config.nanBits`. -/
inductive FloatOp where
  | add | sub | mul | div
  deriving DecidableEq, Repr

/-- `NAN_PAYLOAD` (R12): the sign bit (bit 51 here) and the 51 payload bits of the quiet NaN an operation
returns for its two operands. A free value with no body (log 2). -/
opaque Config.nanBits : FloatOp → F64 → F64 → BitVec 52

/-- The power-on contents of `IN_BUF`, `OUT_BUF` and `REC_BUF` (R122): the byte at a Host bus byte address after
the power-on reset of the given number. A free value with no body (log 3). -/
opaque Config.powerOnByte : Nat → Nat → Byte

end Sys2Proof
end

