-- ==== Sys2Proof/Syntax.lean ====
section
/-!
DEFINITION. The instruction set of DSPFC-1: the eight commands and the two bus transactions of R144, one
constructor per row of spec/opcode_table.json. Every operand has the width its format gives it (R141, R143).
-/

namespace Sys2Proof

/-- The instructions: commands as the Engine performs them (R174 to R182) and Host bus transactions (R171, R172). -/
inductive Instr where
  /-- `nop`, command word `0x0` (R175). -/
  | nop
  /-- `reset`, command word `0x1` (R176). -/
  | reset
  /-- `commit`, command word `0x2` (R177). -/
  | commit
  /-- `start`, command word `0x3` (R178). -/
  | start
  /-- `stop`, command word `0x4` (R179). -/
  | stop
  /-- `flush MASK`, opcode `0x05`, `A8[4:0] = MASK` (R180). -/
  | flush (mask : BitVec 5)
  /-- `process N` and `process N, dyn`, opcode `0x06`, `A16 = N`, `A8[0] = DYN` (R181). -/
  | process (n : BitVec 16) (dyn : Bool)
  /-- `clrpeak`, command word `0x7` (R182). -/
  | clrpeak
  /-- `rd64 ADDR`, BUS header with `W = 0` (R171). -/
  | rd64 (addr : BitVec 32)
  /-- `wr64 ADDR, DATA`, BUS header with `W = 1` and 64 data bits (R172). -/
  | wr64 (addr : BitVec 32) (data : BitVec 64)
  deriving DecidableEq, Repr

end Sys2Proof
end

