-- ==== Sys2Proof/WellFormed.lean ====
section
/-!
DEFINITION. Well-formedness of what comes from outside: instructions, and the Transport's offers (R331).

Every operand of `Instr` has exactly the width of its encoding field (R141, R143), so no instruction the type
holds is ill-formed; values the spec refuses (a misaligned address, `N = 0`) are well-formed words that the
machine answers with an error record (R107, R143). The check that can fail is the offer's.
-/

namespace Sys2Proof

/-- An instruction is well formed when each operand fits its encoding field: `MASK` in five bits, `N` in
sixteen, `ADDR` in thirty-two (R141, R143). The operand types make it hold of every instruction. -/
def Instr.wellFormed : Instr → Bool
  | .nop | .reset | .commit | .start | .stop | .clrpeak => true
  | .flush mask => decide (mask.toNat < 32)
  | .process n _ => decide (n.toNat < 65536)
  | .rd64 addr => decide (addr.toNat < 4294967296)
  | .wr64 addr _ => decide (addr.toNat < 4294967296)

/-- One capture-port offer (R331): the samples and the status flags `ovr` (capture overrun), `udr` (render
underrun) and `novalid` (no valid samples for this block). -/
structure Offer where
  samples : List F64
  ovr : Bool
  udr : Bool
  novalid : Bool
  deriving DecidableEq, Repr

/-- R331: an offer's length must equal `BLOCK_LEN`; with `novalid` the samples are ignored and may be absent. -/
def Offer.wellFormed (o : Offer) (blockLen : Nat) : Bool :=
  o.novalid || o.samples.length == blockLen

end Sys2Proof
end

