-- ==== Sys2Proof/Decode.lean ====
section
/-!
DEFINITION. The decoder and the encoder of the two formats of R140: BUS, the 33-bit header of a Host
transaction with its 64 data bits (R141), and CMD, the 64-bit command word (R142 to R145).

A command word is either one of the eight commands of R144 or illegal; the decoder rejects an illegal one by
the name of the first field that makes it so. Every BUS header is legal.
-/

namespace Sys2Proof

/-- Why a word is no instruction of DSPFC-1 (R145). -/
inductive DecodeError where
  /-- `v[63:32] != 0`. -/
  | highBitsNotZero
  /-- `OP >= 0x08`: reserved for later revisions. -/
  | opcodeReserved (op : BitVec 8)
  /-- A must-be-zero bit of `A8` is set (R143). -/
  | a8NotZero
  /-- `A16` is not zero where R143 says it must be. -/
  | a16NotZero
  /-- Fewer bytes than the format has. -/
  | truncated
  deriving DecidableEq, Repr

/-- The two formats of R140 with the bits a transaction or command carries. A read's data bits are ignored. -/
inductive Encoded where
  | cmd (word : BitVec 64)
  | bus (header : BitVec 33) (data : BitVec 64)
  deriving DecidableEq, Repr

/-- Field `OP` of a command word, bits 7:0 (R142). -/
def cmdOp (v : BitVec 64) : BitVec 8 := v.extractLsb' 0 8

/-- Field `A8`, bits 15:8 (R142). -/
def cmdA8 (v : BitVec 64) : BitVec 8 := v.extractLsb' 8 8

/-- Field `A16`, bits 31:16 (R142). -/
def cmdA16 (v : BitVec 64) : BitVec 16 := v.extractLsb' 16 16

/-- Field `MBZ`, bits 63:32 (R142). -/
def cmdHigh (v : BitVec 64) : BitVec 32 := v.extractLsb' 32 32

/-- A command whose `A8` and `A16` must both be zero (R143, last row). -/
def decodePlain (v : BitVec 64) (i : Instr) : Except DecodeError Instr :=
  if cmdA8 v ≠ 0 then .error .a8NotZero
  else if cmdA16 v ≠ 0 then .error .a16NotZero
  else .ok i

/-- FLUSH: `A8[4:0] = MASK`, `A8[7:5]` and `A16` must be zero (R143). -/
def decodeFlush (v : BitVec 64) : Except DecodeError Instr :=
  if (cmdA8 v).extractLsb' 5 3 ≠ 0 then .error .a8NotZero
  else if cmdA16 v ≠ 0 then .error .a16NotZero
  else .ok (.flush ((cmdA8 v).extractLsb' 0 5))

/-- PROCESS: `A8[0] = DYN`, `A8[7:1]` must be zero, `A16 = N` (R143). -/
def decodeProcess (v : BitVec 64) : Except DecodeError Instr :=
  if (cmdA8 v).extractLsb' 1 7 ≠ 0 then .error .a8NotZero
  else .ok (.process (cmdA16 v) ((cmdA8 v).getLsbD 0))

/-- The command decoder: total on every 64-bit word (R144, R145). -/
def decodeCmd (v : BitVec 64) : Except DecodeError Instr :=
  if cmdHigh v ≠ 0 then .error .highBitsNotZero
  else if cmdOp v = 0x00#8 then decodePlain v .nop
  else if cmdOp v = 0x01#8 then decodePlain v .reset
  else if cmdOp v = 0x02#8 then decodePlain v .commit
  else if cmdOp v = 0x03#8 then decodePlain v .start
  else if cmdOp v = 0x04#8 then decodePlain v .stop
  else if cmdOp v = 0x05#8 then decodeFlush v
  else if cmdOp v = 0x06#8 then decodeProcess v
  else if cmdOp v = 0x07#8 then decodePlain v .clrpeak
  else .error (.opcodeReserved (cmdOp v))

/-- The BUS decoder: bit 32 of the header is `W`, bits 31:0 are `ADDR`; every header is legal (R141, R144). -/
def decodeBus (header : BitVec 33) (data : BitVec 64) : Instr :=
  if header.getLsbD 32 then .wr64 (header.extractLsb' 0 32) data
  else .rd64 (header.extractLsb' 0 32)

/-- The decoder of both formats. -/
def decode : Encoded → Except DecodeError Instr
  | .cmd v => decodeCmd v
  | .bus header data => .ok (decodeBus header data)

/-- A 64-bit value from its eight bytes, the first at the lowest address: little-endian (R105). -/
def wordOfBytes (b0 b1 b2 b3 b4 b5 b6 b7 : Byte) : Word :=
  b7 ++ b6 ++ b5 ++ b4 ++ b3 ++ b2 ++ b1 ++ b0

/-- A command word read from bytes as a byte-viewing Host lays it out (R105); answers the instruction with the
bytes that follow it. -/
def decodeCmdBytes : List Byte → Except DecodeError (Instr × List Byte)
  | b0 :: b1 :: b2 :: b3 :: b4 :: b5 :: b6 :: b7 :: rest =>
    (decodeCmd (wordOfBytes b0 b1 b2 b3 b4 b5 b6 b7)).map fun i => (i, rest)
  | _ => .error .truncated

/-- A command word from its fields (R142). -/
def cmdWord (op a8 : BitVec 8) (a16 : BitVec 16) : BitVec 64 := 0#32 ++ a16 ++ a8 ++ op

/-- The word of a command (R144); a bus transaction has none, and answers `nop`'s word here: `encode` never
asks for it. -/
def encodeCmd : Instr → BitVec 64
  | .nop | .rd64 _ | .wr64 _ _ => cmdWord 0x00 0 0
  | .reset => cmdWord 0x01 0 0
  | .commit => cmdWord 0x02 0 0
  | .start => cmdWord 0x03 0 0
  | .stop => cmdWord 0x04 0 0
  | .flush mask => cmdWord 0x05 (0#3 ++ mask) 0
  | .process n dyn => cmdWord 0x06 (0#7 ++ BitVec.ofBool dyn) n
  | .clrpeak => cmdWord 0x07 0 0

/-- The encoder, from the field tables of R141 to R144. -/
def encode : Instr → Encoded
  | .rd64 addr => .bus (0#1 ++ addr) 0
  | .wr64 addr data => .bus (1#1 ++ addr) data
  | i => .cmd (encodeCmd i)

/-- What the decoder reads from a row of spec/opcode_table.json. The table gives a command 64 bits and a BUS
row the 33-bit header (40 in whole bytes) without its data, which is then zero. A header of a set bit above
bit 32 is none of BUS. -/
def decodeTableWord (nbits w : Nat) : Option Instr :=
  if nbits < 64 then
    if w < 2 ^ 33 then (decode (.bus (BitVec.ofNat 33 w) 0)).toOption else none
  else if nbits = 64 then (decode (.cmd (BitVec.ofNat 64 w))).toOption
  else none

end Sys2Proof
end

