-- ==== Sys2Proof/Machine/State.lean ====
section
/-!
DEFINITION. The state of the block (R30 to R62), the inputs that are still to come and the outputs the spec
says a model observes (R114, R335, R426), as plain data; the reasons a step can stop; the state after reset.
-/

namespace Sys2Proof.Machine

/-- The two FIR stages: stage 0 (`lpf`) and stage 1 (`hpf`) (R24, R280). -/
inductive FirStage where
  | lpf | hpf
  deriving DecidableEq, Repr

/-- The three biquad stages: stages 2, 3 and 4 (R24, R280). -/
inductive BiquadStage where
  | band1 | band2 | band3
  deriving DecidableEq, Repr

/-- The coefficients of one biquad stage, in the order of their addresses (R51). -/
inductive BiquadCoef where
  | b0 | b1 | b2 | a1 | a2
  deriving DecidableEq, Repr

/-- The two delay registers of a biquad stage (R57). -/
inductive BqReg where
  | s1 | s2
  deriving DecidableEq, Repr

/-- The three dynamics parameters (R52). -/
inductive DynParam where
  | thr | ratio | knee
  deriving DecidableEq, Repr

/-- The Engine modes of `STATUS.STATE` (R34, R35, R330). -/
inductive Mode where
  | idle | running
  deriving DecidableEq, Repr

/-- The sixteen error causes, in the order of their codes (R371). -/
inductive Cause where
  | cmdIllegal | cmdState | cmdArg | cmdBusy | cfgInvalid | busUnmapped | busMisaligned | accessDenied
  | xportOverrun | xportUnderrun | xportNoData | dynRange | nonFinite | recOverflow | alreadyRunning | regValue
  deriving DecidableEq, Repr

/-- The four interrupt sources of `IRQ_STATUS`, in bit order (R41). -/
inductive IrqBit where
  | cmdDone | blockDone | stopDone | err
  deriving DecidableEq, Repr

/-- `ERR_CAUSE` (R40): `[7:0] CAUSE`, `[15:8] WHERE`, `[63:32] INFO`; bits 31:16 are reserved and not stored. -/
structure ErrCause where
  cause : BitVec 8
  loc : BitVec 8
  info : BitVec 32
  deriving DecidableEq, Repr

/-- A FIR stage's configuration: the 16-bit tap count (R49) and the `T_MAX` coefficients (R50). -/
structure FirCfg where
  taps : BitVec 16
  h : List F64
  deriving DecidableEq, Repr

/-- A biquad stage's configuration (R51). -/
structure BiquadCfg where
  b0 : F64
  b1 : F64
  b2 : F64
  a1 : F64
  a2 : F64
  deriving DecidableEq, Repr

/-- A whole configuration: the shadow copy `SH` (R49 to R52) and the active copy `ACT` (R53) are of this type. -/
structure Cfg where
  fir0 : FirCfg
  fir1 : FirCfg
  band1 : BiquadCfg
  band2 : BiquadCfg
  band3 : BiquadCfg
  thr : F64
  ratio : F64
  knee : F64
  deriving DecidableEq, Repr

/-- The delay registers of one biquad stage (R57). -/
structure BqState where
  s1 : F64
  s2 : F64
  deriving DecidableEq, Repr

/-- The filter state: the FIR delay lines `DL[0]`, `DL[1]`, newest sample first (R55), and `BQ[2..4]` (R57). -/
structure FilterState where
  dl0 : List F64
  dl1 : List F64
  bq2 : BqState
  bq3 : BqState
  bq4 : BqState
  deriving DecidableEq, Repr

/-- The sample memories `IN_BUF`, `OUT_BUF`, `REC_BUF` (R58 to R60) as written bytes at Host bus byte
addresses. An address that is not listed has not been written since power-on. -/
abbrev Memory := List Host.Cell

/-- The atomic events of R114: a Host bus transaction, an Engine step, a Transport offer; and the external
reset input of R410(a). -/
inductive Event where
  /-- The Host issues the transaction of this BUS header, with these data bits (R141). -/
  | host (header : BitVec 33) (data : BitVec 64)
  /-- The Engine takes the step that is enabled, if one is (R118). -/
  | engine
  /-- The Transport makes an offer (R331). -/
  | offer (o : Offer)
  /-- The block's external reset input: a power-on reset (R410). -/
  | powerOn
  deriving DecidableEq, Repr

/-- Why the machine stops with a fault: never. DSPFC-1 has no trap and 93 §2 says "No item is treated as a
`fault`": every error is a record that the block runs past (R370), so this type has no constructor and a fault
is impossible by type. Safe: nothing is claimed that a fault would contradict. -/
inductive Fault where
  deriving DecidableEq, Repr

/-- Why a step has no meaning. -/
inductive Refusal where
  /-- Raised by `exec` alone, for an instruction that has no meaning yet; no arm raises it now. Safe: the
  machine stops where the hardware goes on. -/
  | notModelled (mnemonic : String)
  /-- Raised by `admitOffer` alone, when an offer is made and when a block cycle takes one, for an offer whose
  length is not `BLOCK_LEN`: "an offer of another length is assumed never to happen and has no move" (R424, R331; 92
  D31; 93 §2 gives it the treatment `refuse`). Safe: the machine stops. -/
  | offerLength
  deriving DecidableEq, Repr

/-- The state. The first group is the block's own (R30); the second is the model's: what the outside world is
still to do and what the spec says a model observes. -/
@[ext]
structure State where
  /-- `PARAM` (R32), constant for an implementation. -/
  params : Params
  /-- `STATUS.STATE` (R35). -/
  mode : Mode
  /-- `STATUS.STOP_REQ` (R36). -/
  stopReq : Bool
  /-- The command slot (R61); `STATUS.CMD_PENDING` says whether it is full (R37). -/
  slot : Option (BitVec 64)
  /-- `ERROR[16:1]`, bit `n - 1` here for cause `n` (R39). -/
  error : BitVec 16
  /-- `ERR_CAUSE` (R40). -/
  errCause : ErrCause
  /-- `IRQ_STATUS[3:0]` (R41). -/
  irqStatus : BitVec 4
  /-- `IRQ_EN[3:0]` (R42). -/
  irqEn : BitVec 4
  /-- `BLOCK_LEN[15:0]` (R43). -/
  blockLen : BitVec 16
  /-- `PEAK` (R44). -/
  peak : F64
  /-- `REC_LEN[21:0]` (R45). -/
  recLen : BitVec 22
  /-- `RESULT_LEN[21:0]` (R46). -/
  resultLen : BitVec 22
  /-- `BLK_CNT` (R47). -/
  blkCnt : BitVec 64
  /-- The shadow configuration `SH` (R49 to R52). -/
  sh : Cfg
  /-- The active configuration `ACT` (R53). -/
  act : Cfg
  /-- The delay lines and delay registers (R55, R57). -/
  filt : FilterState
  /-- `IN_BUF`, `OUT_BUF`, `REC_BUF` (R58 to R60). -/
  mem : Memory
  /-- How many power-on resets there were before: which draw unwritten memory has (R122, log 3). -/
  powerOns : Nat
  /-- The data the last bus read returned to the Host (R171, log 5). -/
  busRead : Word
  /-- Offers made and not yet consumed, oldest first (R332, log 7). -/
  offers : List Offer
  /-- Offers consumed, oldest first (R426). -/
  consumed : List Offer
  /-- The rendered blocks, oldest first (R335). -/
  rendered : List (List F64)
  /-- The events still to come, next first (R114, log 6). -/
  schedule : List Event
  deriving DecidableEq, Repr

/-- A FIR stage at reset: `T = 1`, `h[0] = 1.0`, the other `h[k] = +0.0` (R49, R50). -/
def FirCfg.reset (p : Params) : FirCfg := { taps := 1, h := f64One :: zeros (p.tMax - 1) }

/-- A biquad stage at reset: `b0 = 1.0`, the rest `+0.0` (R51). -/
def BiquadCfg.reset : BiquadCfg :=
  { b0 := f64One, b1 := f64Zero, b2 := f64Zero, a1 := f64Zero, a2 := f64Zero }

/-- The reset value of `SH` and of `ACT` (R49 to R54). -/
def Cfg.reset (p : Params) : Cfg :=
  { fir0 := FirCfg.reset p, fir1 := FirCfg.reset p
    band1 := BiquadCfg.reset, band2 := BiquadCfg.reset, band3 := BiquadCfg.reset
    thr := f64One, ratio := f64One, knee := f64Zero }

/-- Zero delay registers (R57). -/
def BqState.zero : BqState := { s1 := f64Zero, s2 := f64Zero }

/-- The filter state at reset: empty delay lines, since `ACT_TAPS = 1`, and zero delay registers (R411). -/
def FilterState.reset : FilterState :=
  { dl0 := [], dl1 := [], bq2 := BqState.zero, bq3 := BqState.zero, bq4 := BqState.zero }

/-- `ERR_CAUSE` at reset (R40). -/
def ErrCause.zero : ErrCause := { cause := 0, loc := 0, info := 0 }

/-- The state after power-on reset for the given parameters (R411, R412), with no input yet and no output. -/
def State.resetWith (p : Params) : State :=
  { params := p
    mode := .idle
    stopReq := false
    slot := none
    error := 0
    errCause := ErrCause.zero
    irqStatus := 0
    irqEn := 0
    blockLen := BitVec.ofNat 16 (min 1024 p.nMax)
    peak := f64Zero
    recLen := 0
    resultLen := 0
    blkCnt := 0
    sh := Cfg.reset p
    act := Cfg.reset p
    filt := FilterState.reset
    mem := []
    powerOns := 0
    busRead := 0
    offers := []
    consumed := []
    rendered := []
    schedule := [] }

/-- The machine right after reset (R411), for the sizes of `Config.params` (log 1). -/
def State.reset : State := State.resetWith Config.params

end Sys2Proof.Machine
end

