-- ==== Sys2Proof/Machine/Flags.lean ====
section
/-!
DEFINITION. The status bits: `STATUS`, `ERROR`, `ERR_CAUSE`, `IRQ_STATUS`, `IRQ_EN` as the 64-bit values a Host
reads (R34 to R42), the setting and clearing of their bits, and the interrupt line (R381). The block has no
arithmetic condition codes (R63).
-/

namespace Sys2Proof.Machine

/-- The cause code of R371. -/
def Cause.code : Cause → Nat
  | .cmdIllegal => 1
  | .cmdState => 2
  | .cmdArg => 3
  | .cmdBusy => 4
  | .cfgInvalid => 5
  | .busUnmapped => 6
  | .busMisaligned => 7
  | .accessDenied => 8
  | .xportOverrun => 9
  | .xportUnderrun => 10
  | .xportNoData => 11
  | .dynRange => 12
  | .nonFinite => 13
  | .recOverflow => 14
  | .alreadyRunning => 15
  | .regValue => 16

/-- The cause's bit of `ERROR[16:1]` (R39). -/
def Cause.mask (c : Cause) : BitVec 16 := 1#16 <<< (c.code - 1)

/-- The interrupt source's bit of `IRQ_STATUS[3:0]` (R41). -/
def IrqBit.mask : IrqBit → BitVec 4
  | .cmdDone => 0x1#4
  | .blockDone => 0x2#4
  | .stopDone => 0x4#4
  | .err => 0x8#4

/-- `IRQ_STATUS.<bit> <- 1` (R380). -/
def State.setIrq (s : State) (b : IrqBit) : State := { s with irqStatus := s.irqStatus ||| b.mask }

/-- The interrupt line, `(IRQ_STATUS[3:0] AND IRQ_EN[3:0]) != 0` (R381). -/
def State.irqLine (s : State) : Bool := s.irqStatus &&& s.irqEn != 0

/-- `STATUS` (R34): `STATE`, `STOP_REQ`, `CMD_PENDING`, `IRQ` in bits 0 to 3, the rest 0. -/
def State.statusReg (s : State) : Word :=
  0#60 ++ BitVec.ofBool s.irqLine ++ BitVec.ofBool s.slot.isSome ++ BitVec.ofBool s.stopReq
    ++ BitVec.ofBool (s.mode == .running)

/-- `ERROR` (R39): bits 16:1, the rest 0. -/
def State.errorReg (s : State) : Word := 0#47 ++ s.error ++ 0#1

/-- `ERR_CAUSE` (R40, R373): `INFO`, sixteen zeros, `WHERE`, `CAUSE`. -/
def State.errCauseReg (s : State) : Word :=
  s.errCause.info ++ 0#16 ++ s.errCause.loc ++ s.errCause.cause

/-- The W1C write to `ERROR`: `ERROR AND NOT (v AND 0x1_FFFE)` (R183). -/
def State.clearError (s : State) (v : Word) : State := { s with error := s.error &&& ~~~(v.extractLsb' 1 16) }

/-- The W1C write to `IRQ_STATUS`: `IRQ_STATUS AND NOT (v AND 0xF)` (R184). -/
def State.clearIrq (s : State) (v : Word) : State :=
  { s with irqStatus := s.irqStatus &&& ~~~(v.extractLsb' 0 4) }

end Sys2Proof.Machine
end

