-- ==== Sys2Proof/Machine/Ops.lean ====
section
/-!
DEFINITION. The shared operations: memory, configuration and filter-state accessors, the error record (the
block's whole exception mechanism, R370) and the two resets.

DSPFC-1 has no trap entry and no return from one (R370, R379): taking an exception is `State.raise`, which
records and goes on, and what stands for a return is the Host's acknowledgement by W1C writes
(`State.clearError`, `State.clearIrq`).
-/

namespace Sys2Proof.Machine

/-! ### Memory -/

/-- The byte last written at an address since power-on, if any. -/
def Memory.readByte (m : Memory) (a : Nat) : Option Byte := m.lookup a

/-- Write one byte, keeping addresses strictly rising. -/
def Memory.writeByte : Memory → Nat → Byte → Memory
  | [], a, b => [(a, b)]
  | (a', b') :: m, a, b =>
    if a < a' then (a, b) :: (a', b') :: m
    else if a = a' then (a, b) :: m
    else (a', b') :: Memory.writeByte m a b

/-- The eight bytes of a 64-bit value at `a .. a + 7`, little-endian (R105). -/
def Memory.writeWord (m : Memory) (a : Nat) (v : Word) : Memory :=
  let m := m.writeByte a (v.extractLsb' 0 8)
  let m := m.writeByte (a + 1) (v.extractLsb' 8 8)
  let m := m.writeByte (a + 2) (v.extractLsb' 16 8)
  let m := m.writeByte (a + 3) (v.extractLsb' 24 8)
  let m := m.writeByte (a + 4) (v.extractLsb' 32 8)
  let m := m.writeByte (a + 5) (v.extractLsb' 40 8)
  let m := m.writeByte (a + 6) (v.extractLsb' 48 8)
  m.writeByte (a + 7) (v.extractLsb' 56 8)

/-- Consecutive 64-bit values from address `a` on (R102). -/
def Memory.writeWords (m : Memory) (a : Nat) : List Word → Memory
  | [] => m
  | v :: vs => Memory.writeWords (m.writeWord a v) (a + 8) vs

/-- The canonical form: addresses strictly rising. An unlisted address reads as "not written", which is no
byte, so no entry can equal it. -/
def Memory.wf : Memory → Bool
  | [] => true
  | [_] => true
  | (a, _) :: (a', b') :: m => decide (a < a') && Memory.wf ((a', b') :: m)

/-- The byte at an address: what was written, else this power-on's draw (R122). -/
def State.memByte (s : State) (a : Nat) : Byte := (s.mem.readByte a).getD (Config.powerOnByte s.powerOns a)

/-- The 64-bit value at an address, little-endian (R105). -/
def State.memWord (s : State) (a : Nat) : Word :=
  wordOfBytes (s.memByte a) (s.memByte (a + 1)) (s.memByte (a + 2)) (s.memByte (a + 3))
    (s.memByte (a + 4)) (s.memByte (a + 5)) (s.memByte (a + 6)) (s.memByte (a + 7))

/-- `n` consecutive 64-bit values from address `a` on. -/
def State.memWords (s : State) (a : Nat) : Nat → List Word
  | 0 => []
  | n + 1 => s.memWord a :: State.memWords s (a + 8) n

/-- Store a 64-bit value. -/
def State.storeWord (s : State) (a : Nat) (v : Word) : State := { s with mem := s.mem.writeWord a v }

/-- Store consecutive 64-bit values. -/
def State.storeWords (s : State) (a : Nat) (vs : List Word) : State := { s with mem := s.mem.writeWords a vs }

/-- The base addresses of the sample memories (R101). -/
def inBase : Nat := 0x100000
def outBase : Nat := 0x200000
def recBase : Nat := 0x1000000

/-! ### Configuration and filter state by stage -/

def Cfg.fir (c : Cfg) : FirStage → FirCfg
  | .lpf => c.fir0
  | .hpf => c.fir1

def Cfg.setFir (c : Cfg) (f : FirCfg) : FirStage → Cfg
  | .lpf => { c with fir0 := f }
  | .hpf => { c with fir1 := f }

def Cfg.biquad (c : Cfg) : BiquadStage → BiquadCfg
  | .band1 => c.band1
  | .band2 => c.band2
  | .band3 => c.band3

def Cfg.setBiquad (c : Cfg) (b : BiquadCfg) : BiquadStage → Cfg
  | .band1 => { c with band1 := b }
  | .band2 => { c with band2 := b }
  | .band3 => { c with band3 := b }

def BiquadCfg.get (b : BiquadCfg) : BiquadCoef → F64
  | .b0 => b.b0
  | .b1 => b.b1
  | .b2 => b.b2
  | .a1 => b.a1
  | .a2 => b.a2

def BiquadCfg.set (b : BiquadCfg) (v : F64) : BiquadCoef → BiquadCfg
  | .b0 => { b with b0 := v }
  | .b1 => { b with b1 := v }
  | .b2 => { b with b2 := v }
  | .a1 => { b with a1 := v }
  | .a2 => { b with a2 := v }

def Cfg.dyn (c : Cfg) : DynParam → F64
  | .thr => c.thr
  | .ratio => c.ratio
  | .knee => c.knee

def Cfg.setDyn (c : Cfg) (v : F64) : DynParam → Cfg
  | .thr => { c with thr := v }
  | .ratio => { c with ratio := v }
  | .knee => { c with knee := v }

/-- The length a FIR stage's delay line has, `T - 1` (R55). -/
def FirCfg.delayLen (f : FirCfg) : Nat := f.taps.toNat - 1

def FilterState.dl (f : FilterState) : FirStage → List F64
  | .lpf => f.dl0
  | .hpf => f.dl1

def FilterState.setDl (f : FilterState) (d : List F64) : FirStage → FilterState
  | .lpf => { f with dl0 := d }
  | .hpf => { f with dl1 := d }

def FilterState.bq (f : FilterState) : BiquadStage → BqState
  | .band1 => f.bq2
  | .band2 => f.bq3
  | .band3 => f.bq4

def FilterState.setBq (f : FilterState) (b : BqState) : BiquadStage → FilterState
  | .band1 => { f with bq2 := b }
  | .band2 => { f with bq3 := b }
  | .band3 => { f with bq4 := b }

def BqState.get (b : BqState) : BqReg → F64
  | .s1 => b.s1
  | .s2 => b.s2

def BqState.set (b : BqState) (v : F64) : BqReg → BqState
  | .s1 => { b with s1 := v }
  | .s2 => { b with s2 := v }

/-- The filter state with the stages of a mask zeroed: bit `s` selects stage `s` (R143, R180). A FIR stage's
delay line becomes `ACT_TAPS - 1` zeros. -/
def FilterState.flush (f : FilterState) (act : Cfg) (mask : BitVec 5) : FilterState :=
  { dl0 := if mask.getLsbD 0 then zeros act.fir0.delayLen else f.dl0
    dl1 := if mask.getLsbD 1 then zeros act.fir1.delayLen else f.dl1
    bq2 := if mask.getLsbD 2 then BqState.zero else f.bq2
    bq3 := if mask.getLsbD 3 then BqState.zero else f.bq3
    bq4 := if mask.getLsbD 4 then BqState.zero else f.bq4 }

/-! ### The error record -/

/-- `raise Err(cause, where, info)` (R373): the first error while `ERROR` is zero is captured in `ERR_CAUSE`
(R374), then the sticky bit and `IRQ_STATUS.ERR` are set. The operation that raised it goes on as its own rule
says. -/
def State.raise (s : State) (c : Cause) (loc : BitVec 8) (info : BitVec 32) : State :=
  { s with
    errCause := if s.error = 0 then { cause := BitVec.ofNat 8 c.code, loc := loc, info := info } else s.errCause
    error := s.error ||| c.mask
    irqStatus := s.irqStatus ||| IrqBit.err.mask }

/-- An error whose `WHERE` is 0 (every cause but `CFG_INVALID`, R371), raised when the condition holds. -/
def State.raiseIf (s : State) (p : Bool) (c : Cause) (info : BitVec 32) : State :=
  if p then s.raise c 0 info else s

/-- The end of a performed command: the slot is emptied and `CMD_DONE` set (R174). -/
def State.finishCommand (s : State) : State :=
  { s with slot := none, irqStatus := s.irqStatus ||| IrqBit.cmdDone.mask }

/-! ### Reset -/

/-- `SOFT_RESET` (R411): every register, both configurations, the delay lines, the slot and the mode take their
reset values; the three memories keep their contents (R412). An offer still pending is an idle offer from here on
(R411), so it is consumed and dropped with no processing (R340), within the reset's own event (log 7). What the
outside world is still to do, and what was observed before, is not the block's to change. -/
def State.softReset (s : State) : State :=
  { State.resetWith s.params with
    mem := s.mem
    powerOns := s.powerOns
    busRead := s.busRead
    offers := []
    consumed := s.consumed ++ s.offers
    rendered := s.rendered
    schedule := s.schedule }

/-- The power-on reset of the external reset input (R410): as `softReset`, and every element of the three
memories takes an unspecified value (R412), a new draw. -/
def State.powerOnReset (s : State) : State := { s.softReset with mem := [], powerOns := s.powerOns + 1 }

end Sys2Proof.Machine
end

