-- ==== Sys2Proof/Machine/Operands.lean ====
section
/-!
DEFINITION. The operand forms: the Host bus address map (R101 to R103), the access rights of each item (R111,
R112), the value a read of an item gives and what a permitted write does to it (R171, R172, R183 to R188).
-/

namespace Sys2Proof.Machine

/-- An item of a configuration (R49 to R52). -/
inductive CfgItem where
  | taps (s : FirStage)
  | coef (s : FirStage) (k : Nat)
  | biquad (s : BiquadStage) (c : BiquadCoef)
  | dyn (d : DynParam)
  deriving DecidableEq, Repr

/-- What an address names (R101). -/
inductive Item where
  | id | param | cmd | status | error | errCause | irqStatus | irqEn | blockLen | recLen | resultLen | peak
  | blkCnt
  | shadow (c : CfgItem)
  | active (c : CfgItem)
  | delay (s : FirStage) (k : Nat)
  | bqReg (s : BiquadStage) (r : BqReg)
  | inBuf (i : Nat)
  | outBuf (i : Nat)
  | recBuf (i : Nat)
  deriving DecidableEq, Repr

/-- The control registers and their addresses (R31 to R47). -/
def controlMap : List (Nat × Item) :=
  [(0x00, .id), (0x08, .param), (0x10, .cmd), (0x18, .status), (0x20, .error), (0x28, .errCause),
   (0x30, .irqStatus), (0x38, .irqEn), (0x40, .blockLen), (0x48, .recLen), (0x50, .resultLen), (0x58, .peak),
   (0x60, .blkCnt)]

/-- The configuration registers at their offsets from the page base: `0x1000` for the shadow copy (R49, R51,
R52), `0x2000` for the active one (R53). -/
def configMap : List (Nat × CfgItem) :=
  [(0x000, .taps .lpf), (0x008, .taps .hpf),
   (0x100, .biquad .band1 .b0), (0x108, .biquad .band1 .b1), (0x110, .biquad .band1 .b2),
   (0x118, .biquad .band1 .a1), (0x120, .biquad .band1 .a2),
   (0x140, .biquad .band2 .b0), (0x148, .biquad .band2 .b1), (0x150, .biquad .band2 .b2),
   (0x158, .biquad .band2 .a1), (0x160, .biquad .band2 .a2),
   (0x180, .biquad .band3 .b0), (0x188, .biquad .band3 .b1), (0x190, .biquad .band3 .b2),
   (0x198, .biquad .band3 .a1), (0x1A0, .biquad .band3 .a2),
   (0x200, .dyn .thr), (0x208, .dyn .ratio), (0x210, .dyn .knee)]

/-- The biquad delay registers at their offsets from `0x7_0000` (R57). -/
def bqMap : List (Nat × Item) :=
  [(0x00, .bqReg .band1 .s1), (0x08, .bqReg .band1 .s2), (0x10, .bqReg .band2 .s1), (0x18, .bqReg .band2 .s2),
   (0x20, .bqReg .band3 .s1), (0x28, .bqReg .band3 .s2)]

/-- An element of a window of the given base and bound: index `(a - base) / 8`, unmapped at or beyond the bound
(R102, R103). -/
def element (base bound a : Nat) (f : Nat → Item) : Option Item :=
  if (a - base) / 8 < bound then some (f ((a - base) / 8)) else none

/-- The address map of R101 with the bounds of R103, for an aligned address; `none` is unmapped. -/
def itemAt (p : Params) (a : Nat) : Option Item :=
  if a < 0x1000 then controlMap.lookup a
  else if a < 0x2000 then (configMap.lookup (a - 0x1000)).map .shadow
  else if a < 0x10000 then (configMap.lookup (a - 0x2000)).map .active
  else if a < 0x20000 then element 0x10000 p.tMax a fun k => .shadow (.coef .lpf k)
  else if a < 0x30000 then element 0x20000 p.tMax a fun k => .shadow (.coef .hpf k)
  else if a < 0x40000 then element 0x30000 p.tMax a fun k => .active (.coef .lpf k)
  else if a < 0x50000 then element 0x40000 p.tMax a fun k => .active (.coef .hpf k)
  else if a < 0x60000 then element 0x50000 (p.tMax - 1) a fun k => .delay .lpf k
  else if a < 0x70000 then element 0x60000 (p.tMax - 1) a fun k => .delay .hpf k
  else if a < 0x100000 then bqMap.lookup (a - 0x70000)
  else if a < 0x200000 then element inBase p.nMax a .inBuf
  else if a < 0x300000 then element outBase p.nMax a .outBuf
  else if a < 0x1000000 then none
  else if a < 0x2000000 then element recBase p.recCap a .recBuf
  else none

/-- Refused to reads in this mode: the "-" entries of R111. -/
def Item.readDenied (i : Item) (m : Mode) : Bool :=
  match i with
  | .delay _ _ | .bqReg _ _ | .recBuf _ => m == .running
  | _ => false

/-- Read-only in every mode (R112). -/
def Item.readOnly : Item → Bool
  | .id | .param | .status | .errCause | .recLen | .resultLen | .peak | .blkCnt => true
  | .active _ | .outBuf _ | .recBuf _ => true
  | _ => false

/-- Refused to writes in this mode: the "-" and the read-only-while-RUNNING entries of R111. -/
def Item.writeDenied (i : Item) (m : Mode) : Bool :=
  match i with
  | .blockLen | .delay _ _ | .bqReg _ _ => m == .running
  | _ => false

/-- The 64-bit value of a configuration item, reserved bits as 0 (R49 to R53). -/
def Cfg.read (c : Cfg) : CfgItem → Word
  | .taps s => 0#48 ++ (c.fir s).taps
  | .coef s k => (c.fir s).h.getD k f64Zero
  | .biquad s k => (c.biquad s).get k
  | .dyn d => c.dyn d

/-- A plain store into a configuration item; a tap count takes bits 15:0 (R186). -/
def Cfg.write (c : Cfg) (i : CfgItem) (v : Word) : Cfg :=
  match i with
  | .taps s => c.setFir { c.fir s with taps := v.extractLsb' 0 16 } s
  | .coef s k => c.setFir { c.fir s with h := (c.fir s).h.set k v } s
  | .biquad s k => c.setBiquad ((c.biquad s).set v k) s
  | .dyn d => c.setDyn v d

/-- `ID` (R31). -/
def idValue : Word := 0x4453504643000001#64

/-- `PARAM` (R32): `REC_MAX`, `T_MAX`, `N_MAX` from the most significant field down. -/
def paramReg (p : Params) : Word :=
  BitVec.ofNat 32 p.recCap ++ BitVec.ofNat 16 p.tMax ++ BitVec.ofNat 16 p.nMax

/-- The value a permitted read of an item returns (R171): `CMD` reads 0 (R33), and so does a delay-line element
beyond the current length (R56). -/
def State.readItem (s : State) : Item → Word
  | .id => idValue
  | .param => paramReg s.params
  | .cmd => 0
  | .status => s.statusReg
  | .error => s.errorReg
  | .errCause => s.errCauseReg
  | .irqStatus => 0#60 ++ s.irqStatus
  | .irqEn => 0#60 ++ s.irqEn
  | .blockLen => 0#48 ++ s.blockLen
  | .recLen => 0#42 ++ s.recLen
  | .resultLen => 0#42 ++ s.resultLen
  | .peak => s.peak
  | .blkCnt => s.blkCnt
  | .shadow c => s.sh.read c
  | .active c => s.act.read c
  | .delay st k => if k < (s.act.fir st).delayLen then (s.filt.dl st).getD k f64Zero else 0
  | .bqReg st r => (s.filt.bq st).get r
  | .inBuf i => s.memWord (inBase + 8 * i)
  | .outBuf i => s.memWord (outBase + 8 * i)
  | .recBuf i => s.memWord (recBase + 8 * i)

/-- A write to `CMD` (R173): the word `0x1` resets at once; else a full slot drops the word with cause 4; else
the slot takes it. -/
def State.writeCmd (s : State) (v : Word) : State :=
  if v = 0x0000000000000001#64 then s.softReset
  else if s.slot.isSome then s.raise .cmdBusy 0 (v.extractLsb' 0 32)
  else { s with slot := some v }

/-- A write to `BLOCK_LEN` (R185): a value outside `1..N_MAX` raises cause 16 and changes nothing else. -/
def State.writeBlockLen (s : State) (v : Word) : State :=
  let n := v.extractLsb' 0 16
  if 1 ≤ n.toNat ∧ n.toNat ≤ s.params.nMax then { s with blockLen := n }
  else s.raise .regValue 0 0x00000040#32

/-- A write to a FIR delay-line element (R187): beyond the current length it is ignored (R56). -/
def State.writeDelay (s : State) (st : FirStage) (k : Nat) (v : Word) : State :=
  if k < (s.act.fir st).delayLen then { s with filt := s.filt.setDl ((s.filt.dl st).set k v) st } else s

/-- What a permitted write does to its item (R172). The read-only items are refused before this (R112). -/
def State.writeItem (s : State) (i : Item) (v : Word) : State :=
  match i with
  | .cmd => s.writeCmd v
  | .error => s.clearError v
  | .irqStatus => s.clearIrq v
  | .irqEn => { s with irqEn := v.extractLsb' 0 4 }
  | .blockLen => s.writeBlockLen v
  | .shadow c => { s with sh := s.sh.write c v }
  | .delay st k => s.writeDelay st k v
  | .bqReg st r => { s with filt := s.filt.setBq ((s.filt.bq st).set v r) st }
  | .inBuf i => s.storeWord (inBase + 8 * i) v
  | .id | .param | .status | .errCause | .recLen | .resultLen | .peak | .blkCnt => s
  | .active _ | .outBuf _ | .recBuf _ => s

/-- What becomes of a transaction's address before its item is reached: the refusals of R171 and R172 in their
order (R376), or the item. -/
inductive Access where
  | refused (c : Cause)
  | granted (i : Item)
  deriving DecidableEq, Repr

/-- Misaligned, then unmapped, then refused by `denied` (R376). -/
def access (p : Params) (denied : Item → Bool) (a : Addr) : Access :=
  if a.extractLsb' 0 3 ≠ 0 then .refused .busMisaligned
  else match itemAt p a.toNat with
    | none => .refused .busUnmapped
    | some i => if denied i then .refused .accessDenied else .granted i

end Sys2Proof.Machine
end

