-- ==== Sys2Proof/Machine/Bus.lean ====
section
/-!
DEFINITION. The two Host bus transactions (R171, R172).
-/

namespace Sys2Proof.Machine

/-- The access of a read: refused by the "-" entries of R111 (R171). -/
def State.readAccess (s : State) (a : Addr) : Access := access s.params (fun i => i.readDenied s.mode) a

/-- The access of a write: refused to a read-only item (R112) and by the mode (R111, R172). -/
def State.writeAccess (s : State) (a : Addr) : Access :=
  access s.params (fun i => i.readOnly || i.writeDenied s.mode) a

/-- `rd64 ADDR` (R171): the value returned to the Host is kept in `busRead` (log 5); a refused read returns 0
and records its cause with the address. -/
def execRd64 (addr : BitVec 32) (s : State) : Host.Outcome State Fault Refusal :=
  .next (match s.readAccess addr with
    | .refused c => { s.raise c 0 addr with busRead := 0 }
    | .granted i => { s with busRead := s.readItem i })

/-- `wr64 ADDR, DATA` (R172): a refused write changes nothing but the error record. -/
def execWr64 (addr : BitVec 32) (data : BitVec 64) (s : State) : Host.Outcome State Fault Refusal :=
  .next (match s.writeAccess addr with
    | .refused c => s.raise c 0 addr
    | .granted i => s.writeItem i data)

end Sys2Proof.Machine
end

