-- ==== Sys2Proof/Machine/Float.lean ====
section
/-!
DEFINITION. The binary64 arithmetic of R14: roundTiesToEven, subnormals kept, no fused multiply-add.

Every finite operand is read as `sig * 2 ^ (scale - 1075)`, the exact result is formed in natural numbers, and
`roundPack` rounds it once. The IEEE 754 results are general knowledge (R14, log 4); a NaN result is a quiet
NaN whose sign and payload are a free value (R12, log 2).
-/

namespace Sys2Proof.Machine

/-- The sign bit, bit 63 (R13). -/
def fSign (x : F64) : Bool := x.getLsbD 63

/-- The biased exponent, bits 62:52 (R13). -/
def fExp (x : F64) : Nat := x.toNat / 2 ^ 52 % 2048

/-- The fraction, bits 51:0 (R13). -/
def fFrac (x : F64) : Nat := x.toNat % 2 ^ 52

/-- The pattern without its sign, bits 62:0. -/
def fMag (x : F64) : Nat := x.toNat % 2 ^ 63

/-- `isfinite(a)`: the exponent field is not all ones (R14). -/
def isFinite (x : F64) : Bool := fExp x != 2047

/-- A NaN: exponent all ones and a non-zero fraction. -/
def isNaN (x : F64) : Bool := fExp x == 2047 && fFrac x != 0

/-- An infinity: exponent all ones and a zero fraction. -/
def isInf (x : F64) : Bool := fExp x == 2047 && fFrac x == 0

/-- A zero of either sign. -/
def isZero (x : F64) : Bool := fMag x == 0

/-- The significand of a finite number, with its hidden bit when it is normal. -/
def fSig (x : F64) : Nat := if fExp x = 0 then fFrac x else 2 ^ 52 + fFrac x

/-- The exponent a finite number's significand is scaled by, offset by 1075. -/
def fScale (x : F64) : Nat := max (fExp x) 1

/-- The pattern of a sign and a magnitude pattern below `2 ^ 63`. -/
def packSign (s : Bool) (mag : Nat) : F64 := BitVec.ofNat 64 ((if s then 2 ^ 63 else 0) + mag)

/-- The infinity of a sign. -/
def fInf (s : Bool) : F64 := packSign s (2047 * 2 ^ 52)

/-- The zero of a sign. -/
def fZero (s : Bool) : F64 := packSign s 0

/-- `fabs(a)`: bit 63 cleared, exact, also on NaN (R14). -/
def fabs (x : F64) : F64 := BitVec.ofNat 64 (fMag x)

/-- Bit 63 flipped: the negation by which a subtraction is an addition. -/
def fneg (x : F64) : F64 := packSign (!fSign x) (fMag x)

/-- The quiet NaN an operation returns: exponent all ones, bit 51 set, sign and payload free (R12). -/
def fNaN (op : FloatOp) (a b : F64) : F64 :=
  (Config.nanBits op a b).extractLsb' 51 1 ++ 0xFFF#12 ++ (Config.nanBits op a b).extractLsb' 0 51

/-- `m / 2 ^ k` rounded to nearest, ties to even. -/
def roundShift (m k : Nat) : Nat :=
  if 2 * (m % 2 ^ k) > 2 ^ k ∨ (2 * (m % 2 ^ k) = 2 ^ k ∧ m / 2 ^ k % 2 = 1) then m / 2 ^ k + 1
  else m / 2 ^ k

/-- The offset exponent of the last place of the rounded result of `m * 2 ^ e`: 53 significant bits, but never
below the subnormal quantum, which has offset exponent 3022. -/
def lastPlace (m e : Nat) : Nat := max (e + (m.log2 + 1) - 53) 3022

/-- The magnitude pattern of the exact value `m * 2 ^ (e - 4096)` rounded once to binary64: the significand
counts on from the exponent field, so a carry out of it raises the exponent; beyond the range it is infinity. -/
def roundMag (m e : Nat) : Nat :=
  let t := lastPlace m e
  let q := if t ≤ e then m * 2 ^ (e - t) else roundShift m (t - e)
  min ((t - 3022) * 2 ^ 52 + q) (2047 * 2 ^ 52)

/-- The binary64 number nearest to `± m * 2 ^ (e - 4096)`; a zero value keeps the sign. -/
def roundPack (s : Bool) (m e : Nat) : F64 := if m = 0 then fZero s else packSign s (roundMag m e)

/-- The sum of two finite non-zero numbers, rounded once. An exact zero sum of operands of opposite signs is
`+0.0`. -/
def addFinite (a b : F64) : F64 :=
  let e := min (fScale a) (fScale b)
  let ma := fSig a * 2 ^ (fScale a - e)
  let mb := fSig b * 2 ^ (fScale b - e)
  if fSign a = fSign b then roundPack (fSign a) (ma + mb) (e + 3021)
  else if mb < ma then roundPack (fSign a) (ma - mb) (e + 3021)
  else if ma < mb then roundPack (fSign b) (mb - ma) (e + 3021)
  else fZero false

/-- Addition with the NaN to return given: a zero operand leaves the other operand as it is, and the sum of two
zeros is `-0.0` only when both are. -/
def addWith (nan a b : F64) : F64 :=
  if isNaN a || isNaN b then nan
  else if isInf a then (if isInf b && fSign a != fSign b then nan else a)
  else if isInf b then b
  else if isZero a && isZero b then fZero (fSign a && fSign b)
  else if isZero a then b
  else if isZero b then a
  else addFinite a b

/-- `fadd(a,b)` (R14). -/
def fadd (a b : F64) : F64 := addWith (fNaN .add a b) a b

/-- `fsub(a,b)` (R14). -/
def fsub (a b : F64) : F64 := addWith (fNaN .sub a b) a (fneg b)

/-- `fmul(a,b)` (R14); infinity times zero is a NaN. -/
def fmul (a b : F64) : F64 :=
  if isNaN a || isNaN b then fNaN .mul a b
  else if isInf a then (if isZero b then fNaN .mul a b else fInf (fSign a != fSign b))
  else if isInf b then (if isZero a then fNaN .mul a b else fInf (fSign a != fSign b))
  else roundPack (fSign a != fSign b) (fSig a * fSig b) (fScale a + fScale b + 1946)

/-- The quotient of two finite non-zero numbers, rounded once: 115 extra bits and a sticky bit that says whether
the division left a remainder. -/
def divFinite (a b : F64) : F64 :=
  let n := fSig a * 2 ^ 115
  let q := 2 * (n / fSig b) + (if n % fSig b = 0 then 0 else 1)
  roundPack (fSign a != fSign b) q (fScale a + 3980 - fScale b)

/-- `fdiv(a,b)` (R14); zero by zero and infinity by infinity are NaNs, a non-zero number by zero is infinity. -/
def fdiv (a b : F64) : F64 :=
  if isNaN a || isNaN b then fNaN .div a b
  else if isInf a then (if isInf b then fNaN .div a b else fInf (fSign a != fSign b))
  else if isInf b then fZero (fSign a != fSign b)
  else if isZero b then (if isZero a then fNaN .div a b else fInf (fSign a != fSign b))
  else if isZero a then fZero (fSign a != fSign b)
  else divFinite a b

/-- A number's place in the order of the comparisons: both zeros are 0. -/
def fKey (x : F64) : Int := if fSign x then -(fMag x : Int) else (fMag x : Int)

/-- `flt(a,b)`: false if either operand is NaN (R14). -/
def flt (a b : F64) : Bool := !isNaN a && !isNaN b && decide (fKey a < fKey b)

/-- `fgt(a,b)` (R14). -/
def fgt (a b : F64) : Bool := flt b a

/-- `fge(a,b)` (R14). -/
def fge (a b : F64) : Bool := !isNaN a && !isNaN b && decide (fKey b ≤ fKey a)

/-- `feq(a,b)`: `feq(+0,-0)` is true (R14). -/
def feq (a b : F64) : Bool := !isNaN a && !isNaN b && decide (fKey a = fKey b)

end Sys2Proof.Machine
end

