-- ==== Sys2Proof/Machine/Biquad.lean ====
section
/-!
DEFINITION. The IIR biquad stages 2 to 4, transposed direct form II (R260 to R265).
-/

namespace Sys2Proof.Machine

/-- `BIQUAD_SAMPLE(s, x)` (R262): the output, and both new delay registers, which are computed from the old
`s2` and the new output before either is written. -/
def biquadSample (c : BiquadCfg) (st : BqState) (x : F64) : F64 × BqState :=
  let y := fadd (fmul c.b0 x) st.s1
  (y, { s1 := fadd (fsub (fmul c.b1 x) (fmul c.a1 y)) st.s2
        s2 := fsub (fmul c.b2 x) (fmul c.a2 y) })

/-- `BIQUAD_BLOCK` (R263). -/
def biquadBlock (c : BiquadCfg) (st : BqState) : List F64 → List F64 × BqState
  | [] => ([], st)
  | x :: xs =>
    let r := biquadSample c st x
    let rest := biquadBlock c r.2 xs
    (r.1 :: rest.1, rest.2)

end Sys2Proof.Machine
end

