-- ==== Sys2Proof/Machine/Dynamics.lean ====
section
/-!
DEFINITION. The soft-knee dynamics stage (R310 to R319). It has no state (R317). The source's formula divides by
the gain, and the spec takes the formula as it stands (90 C2).
-/

namespace Sys2Proof.Machine

/-- `lo` of R312. -/
def kneeLo (c : Cfg) : F64 := fsub c.thr (fmul c.knee f64Half)

/-- `hi` of R312. -/
def kneeHi (c : Cfg) : F64 := fadd c.thr (fmul c.knee f64Half)

/-- `c` of R312: `1/ratio - 1`. -/
def gainSlope (c : Cfg) : F64 := fsub (fdiv f64One c.ratio) f64One

/-- `DYN_GAIN(m)` (R312). A NaN `m` fails both comparisons and falls into the knee branches. -/
def dynGain (c : Cfg) (m : F64) : F64 :=
  if flt m (kneeLo c) then f64One
  else if fgt m (kneeHi c) then fadd f64One (fmul (gainSlope c) (fsub m c.thr))
  else if feq c.knee f64Zero then f64One
  else
    let d := fsub m (kneeLo c)
    fadd f64One (fdiv (fmul (gainSlope c) (fmul d d)) (fmul f64Two c.knee))

/-- `DYN_SAMPLE(x)` (R314): the output `x / gain`, and the gain. -/
def dynSample (c : Cfg) (x : F64) : F64 × F64 :=
  let g := dynGain c (fabs x)
  (fdiv x g, g)

end Sys2Proof.Machine
end

