-- ==== Sys2Proof/Machine/Fir.lean ====
section
/-!
DEFINITION. The FIR stages 0 and 1 with their tap state buffers (R240 to R246).
-/

namespace Sys2Proof.Machine

/-- The older taps of `FIR_SAMPLE` added in order of increasing age: `h[1], h[2], ...` against
`DL[0], DL[1], ...` (R242). -/
def firAccum (acc : F64) : List F64 → List F64 → F64
  | h :: hs, d :: ds => firAccum (fadd acc (fmul h d)) hs ds
  | _, _ => acc

/-- The output of `FIR_SAMPLE`: the accumulation starts from `h[0] * x` (R242). -/
def firOutput (c : FirCfg) (dl : List F64) (x : F64) : F64 :=
  firAccum (fmul (c.h.getD 0 f64Zero) x) ((c.h.take c.taps.toNat).drop 1) dl

/-- `SHIFT` (R243): the newest input enters at index 0, the oldest leaves, the length stays `T - 1`. -/
def firShift (c : FirCfg) (dl : List F64) (x : F64) : List F64 := (x :: dl).take c.delayLen

/-- `FIR_SAMPLE(s, x)` (R242): the output, and the delay line after it. -/
def firSample (c : FirCfg) (dl : List F64) (x : F64) : F64 × List F64 :=
  (firOutput c dl x, firShift c dl x)

/-- `FIR_BLOCK` (R244): each sample uses the delay line the previous one left. -/
def firBlock (c : FirCfg) (dl : List F64) : List F64 → List F64 × List F64
  | [] => ([], dl)
  | x :: xs =>
    let r := firSample c dl x
    let rest := firBlock c r.2 xs
    (r.1 :: rest.1, rest.2)

end Sys2Proof.Machine
end

