-- ==== Sys2Proof/Machine/Chain.lean ====
section
/-!
DEFINITION. The stage chain, COMMIT's validation and application, and the per-sample step after the chain
(R280 to R289).
-/

namespace Sys2Proof.Machine

/-- `CHAIN_BLOCK` (R281): the block through the five stages in their fixed order (R280); the output and the
filter state after it. -/
def chainBlock (c : Cfg) (f : FilterState) (x : List F64) : List F64 × FilterState :=
  let u0 := firBlock c.fir0 f.dl0 x
  let u1 := firBlock c.fir1 f.dl1 u0.1
  let u2 := biquadBlock c.band1 f.bq2 u1.1
  let u3 := biquadBlock c.band2 f.bq3 u2.1
  let u4 := biquadBlock c.band3 f.bq4 u3.1
  (u4.1, { dl0 := u0.2, dl1 := u1.2, bq2 := u2.2, bq3 := u3.2, bq4 := u4.2 })

/-- What `VALIDATE` found first: `WHERE` and `INFO` of R282. -/
structure CfgFailure where
  loc : BitVec 8
  info : BitVec 32
  deriving DecidableEq, Repr

/-- The index of the first non-finite coefficient, counting from `k`. -/
def firstNonFinite (k : Nat) : List F64 → Option Nat
  | [] => none
  | c :: cs => if isFinite c then firstNonFinite (k + 1) cs else some k

/-- The checks of a FIR stage: the tap count in `1..T_MAX`, then the first `T` coefficients finite (R282). -/
def validateFir (p : Params) (loc : BitVec 8) (f : FirCfg) : Option CfgFailure :=
  if f.taps.toNat < 1 ∨ p.tMax < f.taps.toNat then some { loc := loc, info := 0xFFFFFFFF#32 }
  else (firstNonFinite 0 (f.h.take f.taps.toNat)).map fun k => { loc := loc, info := BitVec.ofNat 32 k }

/-- The checks of a biquad stage: `b0 b1 b2 a1 a2` finite, in that order (R282). -/
def validateBiquad (loc : BitVec 8) (b : BiquadCfg) : Option CfgFailure :=
  (firstNonFinite 0 [b.b0, b.b1, b.b2, b.a1, b.a2]).map fun k => { loc := loc, info := BitVec.ofNat 32 k }

/-- The checks of the dynamics parameters: `THR` finite, `RATIO` finite and positive, `KNEE` finite and not
negative (R282). -/
def validateDyn (c : Cfg) : Option CfgFailure :=
  if !isFinite c.thr then some { loc := 5, info := 0 }
  else if !(isFinite c.ratio && fgt c.ratio f64Zero) then some { loc := 5, info := 1 }
  else if !(isFinite c.knee && fge c.knee f64Zero) then some { loc := 5, info := 2 }
  else none

/-- `VALIDATE(SH)` (R282): the first failure in order, or `none` for ok. -/
def validate (p : Params) (c : Cfg) : Option CfgFailure :=
  ((((validateFir p 0 c.fir0).or (validateFir p 1 c.fir1)).or
    (validateBiquad 2 c.band1)).or
    (validateBiquad 3 c.band2)).or
    ((validateBiquad 4 c.band3).or (validateDyn c))

/-- The delay line of a FIR stage under a new tap count: zeros when the count differs, else retained (R283). -/
def retainOrZero (newCfg oldCfg : FirCfg) (dl : List F64) : List F64 :=
  if newCfg.taps ≠ oldCfg.taps then zeros newCfg.delayLen else dl

/-- `APPLY(SH)` (R283): the whole shadow configuration becomes active in one step; the delay registers are
retained. -/
def State.applyShadow (s : State) : State :=
  { s with
    act := s.sh
    filt := { s.filt with
      dl0 := retainOrZero s.sh.fir0 s.act.fir0 s.filt.dl0
      dl1 := retainOrZero s.sh.fir1 s.act.fir1 s.filt.dl1 } }

/-- `PEAK <- fabs(y)` when it is greater (R289). -/
def State.notePeak (s : State) (y : F64) : State := if fgt (fabs y) s.peak then { s with peak := fabs y } else s

/-- `FINISH_SAMPLE(y, i, dyn)` (R289): the output sample, and the state with its errors recorded and `PEAK`
raised. -/
def finishSample (s : State) (dyn : Bool) (i : Nat) (y : F64) : F64 × State :=
  let r := if dyn then dynSample s.act y else (y, f64One)
  let s := s.raiseIf (dyn && !fgt r.2 f64Zero) .dynRange (BitVec.ofNat 32 i)
  let s := s.raiseIf (!isFinite r.1) .nonFinite (BitVec.ofNat 32 i)
  (r.1, s.notePeak r.1)

/-- The samples of a block finished in increasing index, from index `i` on (R289). -/
def finishBlock (s : State) (dyn : Bool) (i : Nat) : List F64 → List F64 × State
  | [] => ([], s)
  | y :: ys =>
    let r := finishSample s dyn i y
    let rest := finishBlock r.2 dyn (i + 1) ys
    (r.1 :: rest.1, rest.2)

/-- A block through the chain and `FINISH_SAMPLE`, as PROCESS and the block cycle share it (R181, R333): the
output block, and the state with filter state, errors and `PEAK` updated. -/
def State.runBlock (s : State) (dyn : Bool) (x : List F64) : List F64 × State :=
  let r := chainBlock s.act s.filt x
  finishBlock { s with filt := r.2 } dyn 0 r.1

end Sys2Proof.Machine
end

