-- ==== Sys2Proof/Machine/Command.lean ====
section
/-!
DEFINITION. The eight commands as the Engine performs them (R174 to R182). A performed command ends by emptying
the slot and setting `CMD_DONE` (R174); RESET alone does not, since it sets every register (R176). `INFO` of a
command's error is the command word's bits 31:0, which `encodeCmd` gives (R371).
-/

namespace Sys2Proof.Machine

/-- Bits 31:0 of the command's word, the `INFO` of its errors (R371). -/
def cmdInfo (i : Instr) : BitVec 32 := (encodeCmd i).extractLsb' 0 32

/-- A word that is no command: cause 1, no other effect, and the end of a command step (R145, R174). -/
def State.illegalCommand (s : State) (v : BitVec 64) : State :=
  (s.raise .cmdIllegal 0 (v.extractLsb' 0 32)).finishCommand

/-- The fresh session of START (R178): all filter state zero, the counts and `PEAK` cleared, RUNNING. -/
def State.beginSession (s : State) : State :=
  { s with
    filt := s.filt.flush s.act 0x1F#5
    recLen := 0
    resultLen := 0
    blkCnt := 0
    peak := f64Zero
    stopReq := false
    mode := .running }

/-- PROCESS once its checks have passed (R181): `IN_BUF` is read whole before `OUT_BUF` is written. -/
def State.processBlock (s : State) (n : Nat) (dyn : Bool) : State :=
  let r := s.runBlock dyn (s.memWords inBase n)
  let t := r.2.storeWords outBase r.1
  { t with blkCnt := t.blkCnt + 1 }

/-- `nop` (R175). -/
def execNop (s : State) : Host.Outcome State Fault Refusal := .next s.finishCommand

/-- `reset` (R176): `SOFT_RESET`, in either mode; `CMD_DONE` is not set. -/
def execReset (s : State) : Host.Outcome State Fault Refusal := .next s.softReset

/-- `commit` (R177): validate the shadow configuration, then apply it or record cause 5. -/
def execCommit (s : State) : Host.Outcome State Fault Refusal :=
  .next (match validate s.params s.sh with
    | some f => (s.raise .cfgInvalid f.loc f.info).finishCommand
    | none => s.applyShadow.finishCommand)

/-- `start` (R178). -/
def execStart (s : State) : Host.Outcome State Fault Refusal :=
  .next (match s.mode with
    | .running => (s.raise .alreadyRunning 0 (cmdInfo .start)).finishCommand
    | .idle => s.beginSession.finishCommand)

/-- `stop` (R179). -/
def execStop (s : State) : Host.Outcome State Fault Refusal :=
  .next (match s.mode with
    | .running => State.finishCommand { s with stopReq := true }
    | .idle => State.finishCommand { s with resultLen := 0 })

/-- `flush MASK` (R180). -/
def execFlush (mask : BitVec 5) (s : State) : Host.Outcome State Fault Refusal :=
  .next (match s.mode with
    | .running => (s.raise .cmdState 0 (cmdInfo (.flush mask))).finishCommand
    | .idle => State.finishCommand { s with filt := s.filt.flush s.act mask })

/-- `process N` and `process N, dyn` (R181): refused while RUNNING, then for `N` outside `1..N_MAX` (R375). -/
def execProcess (n : BitVec 16) (dyn : Bool) (s : State) : Host.Outcome State Fault Refusal :=
  .next (match s.mode with
    | .running => (s.raise .cmdState 0 (cmdInfo (.process n dyn))).finishCommand
    | .idle =>
      if n.toNat < 1 ∨ s.params.nMax < n.toNat then (s.raise .cmdArg 0 (cmdInfo (.process n dyn))).finishCommand
      else (s.processBlock n.toNat dyn).finishCommand)

/-- `clrpeak` (R182). -/
def execClrpeak (s : State) : Host.Outcome State Fault Refusal :=
  .next (State.finishCommand { s with peak := f64Zero })

end Sys2Proof.Machine
end

