-- ==== Sys2Proof/Machine/Dispatch.lean ====
section
/-!
DEFINITION. The meaning of every instruction, one arm per constructor of `Instr`.
-/

namespace Sys2Proof.Machine

def exec (i : Instr) (s : State) : Host.Outcome State Fault Refusal :=
  match i with
  | .nop => Sys2Proof.Machine.execNop s
  | .reset => Sys2Proof.Machine.execReset s
  | .commit => Sys2Proof.Machine.execCommit s
  | .start => Sys2Proof.Machine.execStart s
  | .stop => Sys2Proof.Machine.execStop s
  | .flush mask => Sys2Proof.Machine.execFlush mask s
  | .process n dyn => Sys2Proof.Machine.execProcess n dyn s
  | .clrpeak => Sys2Proof.Machine.execClrpeak s
  | .rd64 addr => Sys2Proof.Machine.execRd64 addr s
  | .wr64 addr data => Sys2Proof.Machine.execWr64 addr data s

end Sys2Proof.Machine
end

