-- ==== Sys2Proof/Machine/Streaming.lean ====
section
/-!
DEFINITION. The streaming block pipeline (R330 to R346): the block cycle, rendering, recording, the observation
of a stop, and the Transport's offers.
-/

namespace Sys2Proof.Machine

/-- `RENDER(y)` (R335): one entry of the observed output sequence per block cycle. -/
def State.render (s : State) (y : List F64) : State := { s with rendered := s.rendered ++ [y] }

/-- `REC_BUF[REC_LEN] <- y; REC_LEN <- REC_LEN + 1` (R336). -/
def State.recordSample (s : State) (y : F64) : State :=
  { s.storeWord (recBase + 8 * s.recLen.toNat) y with recLen := s.recLen + 1 }

/-- The loop of `RECORD` from index `i` on (R336): the state, and the index of the first dropped sample. -/
def recordLoop (s : State) (i : Nat) (dropped : Option Nat) : List F64 → State × Option Nat
  | [] => (s, dropped)
  | y :: ys =>
    if s.recLen.toNat < s.params.recCap then recordLoop (s.recordSample y) (i + 1) dropped ys
    else recordLoop s (i + 1) (dropped.or (some i)) ys

/-- `RECORD(y)` (R336): the samples that fit are appended; an overflow is raised once, with the index of the
first dropped sample. -/
def State.record (s : State) (y : List F64) : State :=
  match recordLoop s 0 none y with
  | (t, none) => t
  | (t, some i) => t.raise .recOverflow 0 (BitVec.ofNat 32 i)

/-- The test of the stop flag at the end of a block cycle (R337). -/
def State.observeStop (s : State) : State :=
  if s.stopReq then
    State.setIrq { s with mode := .idle, stopReq := false, resultLen := s.recLen } .stopDone
  else s

/-- The three transport faults of an offer, in their order (R334, R377). -/
def State.noteOfferFlags (s : State) (o : Offer) : State :=
  ((s.raiseIf o.ovr .xportOverrun 0).raiseIf o.udr .xportUnderrun 0).raiseIf o.novalid .xportNoData 0

/-- The samples a block cycle processes: silence of length `BLOCK_LEN` when none are valid (R333). -/
def State.offerSamples (s : State) (o : Offer) : List F64 :=
  if o.novalid then zeros s.blockLen.toNat else o.samples

/-- `BLOCK_CYCLE(offer)` (R333). -/
def State.blockCycle (s : State) (o : Offer) : State :=
  let r := (s.noteOfferFlags o).runBlock true (s.offerSamples o)
  let t := (r.2.render r.1).record r.1
  State.observeStop (State.setIrq { t with blkCnt := t.blkCnt + 1 } .blockDone)

/-- An offer leaves the Transport's port (R332, R340). -/
def State.consume (s : State) (o : Offer) (rest : List Offer) : State :=
  { s with offers := rest, consumed := s.consumed ++ [o] }

/-- The Transport's contract (R331): an offer's length must equal `BLOCK_LEN`, and any other offer "is assumed never
to happen and has no move" (R424; 92 D31; 93 §2: `refuse`). `t` is where an offer that keeps it leads. -/
def admitOffer (s : State) (o : Offer) (t : State) : Host.Outcome State Fault Refusal :=
  if o.wellFormed s.blockLen.toNat then .next t else .refused .offerLength

/-- The Transport makes an offer (R331): while IDLE with the slot empty it is consumed and dropped at once
(R340); else it waits for the Engine (R332). -/
def offerEvent (o : Offer) (s : State) : Host.Outcome State Fault Refusal :=
  admitOffer s o (if s.mode = .idle ∧ s.slot = none then { s with consumed := s.consumed ++ [o] }
    else { s with offers := s.offers ++ [o] })

/-- The Engine with the slot empty: a waiting offer is run through a block cycle while RUNNING (R332) and
dropped while IDLE (R340); with no offer waiting it does nothing (R389). -/
def offerStep (s : State) : Host.Outcome State Fault Refusal :=
  match s.offers with
  | [] => .next s
  | o :: rest =>
    match s.mode with
    | .idle => .next (s.consume o rest)
    | .running => admitOffer s o ((s.consume o rest).blockCycle o)

end Sys2Proof.Machine
end

