-- ==== Sys2Proof/Machine/Schedule.lean ====
section
/-!
DEFINITION. The agents' steps (R21, R114, R118): fetching and performing a held command, a Host transaction,
an Engine step, an offer, the reset input; and how an instruction is placed to be run next.
-/

namespace Sys2Proof.Machine

/-- The Engine's command step on the held word `v` (R174): an illegal word records cause 1, any other is
performed. -/
def commandStep (v : BitVec 64) (s : State) : Host.Outcome State Fault Refusal :=
  match decodeCmd v with
  | .ok i => exec i s
  | .error _ => .next (s.illegalCommand v)

/-- The Engine's step (R118): a held command comes before any block cycle (R341). -/
def engineStep (s : State) : Host.Outcome State Fault Refusal :=
  match s.slot with
  | some v => commandStep v s
  | none => offerStep s

/-- One atomic event of R114. -/
def eventStep (e : Event) (s : State) : Host.Outcome State Fault Refusal :=
  match e with
  | .host header data => exec (decodeBus header data) s
  | .engine => engineStep s
  | .offer o => offerEvent o s
  | .powerOn => .next s.powerOnReset

/-- The next event of the schedule; when none is left the Engine takes the step that is enabled (R423). -/
def nextEvent (s : State) : Host.Outcome State Fault Refusal :=
  match s.schedule with
  | [] => engineStep s
  | e :: rest => eventStep e { s with schedule := rest }

/-- Place a word to be performed next: the slot holds it and the Engine moves first (R61, R174). -/
def State.placeCommand (s : State) (v : BitVec 64) : State :=
  { s with slot := some v, schedule := .engine :: s.schedule }

/-- Place a bus transaction to be issued next (R141). -/
def State.placeTransaction (s : State) (header : BitVec 33) (data : BitVec 64) : State :=
  { s with schedule := .host header data :: s.schedule }

/-- An instruction in the numbering of spec/opcode_table.json, placed where the next step fetches it: a BUS row
has fewer than 64 bits and zero data, a CMD row has 64. -/
def State.placeTableWord (s : State) (nbits w : Nat) : State :=
  if nbits < 64 then s.placeTransaction (BitVec.ofNat 33 w) 0 else s.placeCommand (BitVec.ofNat 64 w)

end Sys2Proof.Machine
end

