-- ==== Sys2Proof/Machine/Step.lean ====
section
/-!
DEFINITION. One step of the machine: one atomic event (R114). What an event does stands in Schedule.lean.
-/

namespace Sys2Proof.Machine

/-- The next event of the interleaving. -/
def step (s : State) : Host.Outcome State Fault Refusal := nextEvent s

/-- `s` with an instruction placed to be the one the next step runs (log 8). -/
def State.withFetchWord (s : State) (nbits w : Nat) : State := s.placeTableWord nbits w

end Sys2Proof.Machine
end

