-- ==== Sys2Proof/Safety.lean ====
section
/-!
DEFINITION. What counts as a good state and a safe run, in the terms the statements use.

The invariant collects what the rules say of every state the block can be in. A run is safe when no step is
refused; no step can fault, since `Fault` has no constructor (93 §2).
-/

namespace Sys2Proof.Machine

/-- What the rules say holds in every state of the block. -/
structure State.Inv (s : State) : Prop where
  /-- The sample memories are in canonical form. -/
  memWf : s.mem.wf = true
  /-- `BLOCK_LEN` holds a legal value, `1..N_MAX` (R43). -/
  blockLen : 1 ≤ s.blockLen.toNat ∧ s.blockLen.toNat ≤ s.params.nMax
  /-- `STOP_REQ` is 0 whenever the Engine is IDLE (R36). -/
  stopReq : s.stopReq = true → s.mode = .running
  /-- `REC_LEN <= REC_MAX` (R45). -/
  recLen : s.recLen.toNat ≤ s.params.recCap
  /-- The session result is part of the recording (R46). -/
  resultLen : s.resultLen.toNat ≤ s.recLen.toNat
  /-- There is no result while a session runs (R46, R178). -/
  noResult : s.mode = .running → s.resultLen = 0
  /-- Each configuration has `T_MAX` coefficients for each FIR stage (R50, R53). -/
  shCoefs : s.sh.fir0.h.length = s.params.tMax ∧ s.sh.fir1.h.length = s.params.tMax
  actCoefs : s.act.fir0.h.length = s.params.tMax ∧ s.act.fir1.h.length = s.params.tMax
  /-- `ACT` always passes the COMMIT validation (R53, R284). -/
  actValid : validate s.params s.act = none
  /-- Each delay line holds exactly `ACT_TAPS - 1` samples (R55). -/
  delayLen : s.filt.dl0.length = s.act.fir0.delayLen ∧ s.filt.dl1.length = s.act.fir1.delayLen
  /-- The slot never holds the RESET word, which is performed at the write (R173). -/
  slotNotReset : s.slot ≠ some 0x0000000000000001#64
  /-- `PEAK` is a magnitude: no NaN, no sign (R44, R289). -/
  peak : isNaN s.peak = false ∧ fSign s.peak = false

/-! ### Which event comes next -/

/-- The Engine takes the next step: its event is next, or no event is left (R118, R423). -/
def EngineMoves (s : State) : Prop := s.schedule = [] ∨ s.schedule.head? = some .engine

/-- The state with the next event taken off the schedule: what that event works on. -/
def State.popped (s : State) : State := { s with schedule := s.schedule.tail }

/-- The next event is a Host transaction that decodes to this instruction (R141). -/
def HostIssues (s : State) (i : Instr) : Prop :=
  ∃ header data, s.schedule.head? = some (.host header data) ∧ decodeBus header data = i

/-- The next step is the Engine's performance of this command (R174). -/
def Performs (s : State) (i : Instr) : Prop :=
  EngineMoves s ∧ ∃ v, s.slot = some v ∧ decodeCmd v = .ok i

/-- The next step is a block cycle on the oldest waiting offer (R332). -/
def RunsBlockCycle (s : State) (o : Offer) (rest : List Offer) : Prop :=
  EngineMoves s ∧ s.slot = none ∧ s.mode = .running ∧ s.offers = o :: rest ∧
    o.wellFormed s.blockLen.toNat = true

/-- The next step is a reset: the RESET word written to `CMD` (R173), the RESET command performed (R176) or the
external reset input (R410). -/
def ResetHappens (s : State) : Prop :=
  HostIssues s (.wr64 0x00000010 0x0000000000000001) ∨ Performs s .reset ∨ s.schedule.head? = some .powerOn

/-- A step that is not refused. -/
def Safe (s : State) : Prop := ∃ t, step s = .next t

end Sys2Proof.Machine
end

