-- ==== Sys2Proof/Certificates/Slice0/Obligations.lean ====
section
/-!
DEFINITION. The statements for the provers. Each docstring names the rule of spec/ the statement formalises.

Where a statement lists the fields an operation may change it is written `t = { s with f := t.f, ... }`: every
field that is not named is as it was.

What the spec says outside the block's registers the statements say in the model's own fields: the data a read
returned in `busRead` (log 5), the next event in `schedule` (`EngineMoves`, `HostIssues`, `Performs`; log 6), the
offers and the rendered blocks in `offers`, `consumed` and `rendered` (log 7). Those fields are the model's choice.
-/

open Sys2Proof Sys2Proof.Machine

/-! ### Words the statements use -/

/-- The word's must-be-zero fields that are not zero (R143, last two bullets of R145). -/
def Sys2Proof.Machine.MbzViolated (v : BitVec 64) : Prop :=
  if v.extractLsb' 0 8 = 0x05#8 then v.extractLsb' 13 3 ≠ 0 ∨ v.extractLsb' 16 16 ≠ 0
  else if v.extractLsb' 0 8 = 0x06#8 then v.extractLsb' 9 7 ≠ 0
  else v.extractLsb' 8 8 ≠ 0 ∨ v.extractLsb' 16 16 ≠ 0

/-- The byte address of a configuration item from its page's base and its coefficient windows' bases (R49 to
R53). -/
def Sys2Proof.Machine.CfgItem.addr (page win0 win1 : Nat) : CfgItem → Nat
  | .taps .lpf => page
  | .taps .hpf => page + 0x8
  | .coef .lpf k => win0 + 8 * k
  | .coef .hpf k => win1 + 8 * k
  | .biquad s c =>
    page + 0x100 + (match s with | .band1 => 0 | .band2 => 0x40 | .band3 => 0x80)
      + (match c with | .b0 => 0 | .b1 => 0x8 | .b2 => 0x10 | .a1 => 0x18 | .a2 => 0x20)
  | .dyn .thr => page + 0x200
  | .dyn .ratio => page + 0x208
  | .dyn .knee => page + 0x210

/-- The byte address of an item (R31 to R60). -/
def Sys2Proof.Machine.Item.addr : Item → Nat
  | .id => 0x00 | .param => 0x08 | .cmd => 0x10 | .status => 0x18 | .error => 0x20 | .errCause => 0x28
  | .irqStatus => 0x30 | .irqEn => 0x38 | .blockLen => 0x40 | .recLen => 0x48 | .resultLen => 0x50
  | .peak => 0x58 | .blkCnt => 0x60
  | .shadow c => c.addr 0x1000 0x10000 0x20000
  | .active c => c.addr 0x2000 0x30000 0x40000
  | .delay .lpf k => 0x50000 + 8 * k
  | .delay .hpf k => 0x60000 + 8 * k
  | .bqReg s r =>
    0x70000 + (match s with | .band1 => 0 | .band2 => 0x10 | .band3 => 0x20) + (match r with | .s1 => 0 | .s2 => 8)
  | .inBuf i => 0x100000 + 8 * i
  | .outBuf i => 0x200000 + 8 * i
  | .recBuf i => 0x1000000 + 8 * i

/-- The value of a configuration item, as the field of the configuration that COMMIT copies and the datapath uses; a
tap count's upper bits read 0 (R49 to R53, R113). -/
def Sys2Proof.Machine.CfgItem.value (c : Cfg) : CfgItem → Word
  | .taps .lpf => c.fir0.taps.zeroExtend 64
  | .taps .hpf => c.fir1.taps.zeroExtend 64
  | .coef .lpf k => c.fir0.h.getD k 0
  | .coef .hpf k => c.fir1.h.getD k 0
  | .biquad .band1 .b0 => c.band1.b0
  | .biquad .band1 .b1 => c.band1.b1
  | .biquad .band1 .b2 => c.band1.b2
  | .biquad .band1 .a1 => c.band1.a1
  | .biquad .band1 .a2 => c.band1.a2
  | .biquad .band2 .b0 => c.band2.b0
  | .biquad .band2 .b1 => c.band2.b1
  | .biquad .band2 .b2 => c.band2.b2
  | .biquad .band2 .a1 => c.band2.a1
  | .biquad .band2 .a2 => c.band2.a2
  | .biquad .band3 .b0 => c.band3.b0
  | .biquad .band3 .b1 => c.band3.b1
  | .biquad .band3 .b2 => c.band3.b2
  | .biquad .band3 .a1 => c.band3.a1
  | .biquad .band3 .a2 => c.band3.a2
  | .dyn .thr => c.thr
  | .dyn .ratio => c.ratio
  | .dyn .knee => c.knee

/-- The 64-bit value of an item, as the fields of the state: the control registers (R31 to R47), the shadow and the
active configuration (R49 to R53), the delay lines below their current length (R55, R56), the delay registers (R57)
and the sample memories (R58 to R60). Reserved bits are 0 (R113). -/
def Sys2Proof.Machine.Item.value (s : State) : Item → Word
  | .id => 0x4453504643000001#64
  | .param => BitVec.ofNat 32 s.params.recCap ++ BitVec.ofNat 16 s.params.tMax ++ BitVec.ofNat 16 s.params.nMax
  | .cmd => 0x0000000000000000#64
  | .status => s.statusReg
  | .error => s.errorReg
  | .errCause => s.errCauseReg
  | .irqStatus => s.irqStatus.zeroExtend 64
  | .irqEn => s.irqEn.zeroExtend 64
  | .blockLen => s.blockLen.zeroExtend 64
  | .recLen => s.recLen.zeroExtend 64
  | .resultLen => s.resultLen.zeroExtend 64
  | .peak => s.peak
  | .blkCnt => s.blkCnt
  | .shadow c => c.value s.sh
  | .active c => c.value s.act
  | .delay .lpf k => if k < s.act.fir0.taps.toNat - 1 then s.filt.dl0.getD k 0 else 0x0000000000000000#64
  | .delay .hpf k => if k < s.act.fir1.taps.toNat - 1 then s.filt.dl1.getD k 0 else 0x0000000000000000#64
  | .bqReg .band1 .s1 => s.filt.bq2.s1
  | .bqReg .band1 .s2 => s.filt.bq2.s2
  | .bqReg .band2 .s1 => s.filt.bq3.s1
  | .bqReg .band2 .s2 => s.filt.bq3.s2
  | .bqReg .band3 .s1 => s.filt.bq4.s1
  | .bqReg .band3 .s2 => s.filt.bq4.s2
  | .inBuf i => s.memWord (0x100000 + 8 * i)
  | .outBuf i => s.memWord (0x200000 + 8 * i)
  | .recBuf i => s.memWord (0x1000000 + 8 * i)

/-- The item exists for these parameters: the window bounds of R103. -/
def Sys2Proof.Machine.Item.exists_ (p : Params) : Item → Prop
  | .shadow (.coef _ k) | .active (.coef _ k) => k < p.tMax
  | .delay _ k => k < p.tMax - 1
  | .inBuf i | .outBuf i => i < p.nMax
  | .recBuf i => i < p.recCap
  | _ => True

/-- The "R" entries of the table of R111; `CMD` reads 0 with no error. -/
def Sys2Proof.Machine.mayRead (m : Mode) : Item → Prop
  | .delay _ _ | .bqReg _ _ | .recBuf _ => m = .idle
  | _ => True

/-- The "W" and "W1C" entries of the table of R111. -/
def Sys2Proof.Machine.mayWrite (m : Mode) : Item → Prop
  | .cmd | .error | .irqStatus | .irqEn | .shadow _ | .inBuf _ => True
  | .blockLen | .delay _ _ | .bqReg _ _ => m = .idle
  | _ => False

/-- A FIR stage's first failing check of R282 and its `INFO`. -/
def Sys2Proof.Machine.FirFails (p : Params) (f : FirCfg) (info : BitVec 32) : Prop :=
  ((f.taps.toNat < 1 ∨ p.tMax < f.taps.toNat) ∧ info = 0xFFFFFFFF#32) ∨
  (1 ≤ f.taps.toNat ∧ f.taps.toNat ≤ p.tMax ∧ ∃ k, k < f.taps.toNat ∧
    isFinite (f.h.getD k f64Zero) = false ∧ (∀ j, j < k → isFinite (f.h.getD j f64Zero) = true) ∧
    info = BitVec.ofNat 32 k)

/-- A FIR stage that passes R282. -/
def Sys2Proof.Machine.FirPasses (p : Params) (f : FirCfg) : Prop :=
  1 ≤ f.taps.toNat ∧ f.taps.toNat ≤ p.tMax ∧ ∀ k, k < f.taps.toNat → isFinite (f.h.getD k f64Zero) = true

/-- A biquad stage's first non-finite coefficient (R282). -/
def Sys2Proof.Machine.BiquadFails (b : BiquadCfg) (info : BitVec 32) : Prop :=
  ∃ k, k < 5 ∧ isFinite ([b.b0, b.b1, b.b2, b.a1, b.a2].getD k f64Zero) = false ∧
    (∀ j, j < k → isFinite ([b.b0, b.b1, b.b2, b.a1, b.a2].getD j f64Zero) = true) ∧ info = BitVec.ofNat 32 k

/-- A biquad stage that passes R282. -/
def Sys2Proof.Machine.BiquadPasses (b : BiquadCfg) : Prop :=
  isFinite b.b0 = true ∧ isFinite b.b1 = true ∧ isFinite b.b2 = true ∧ isFinite b.a1 = true ∧ isFinite b.a2 = true

/-- The dynamics parameters' first failing check (R282). -/
def Sys2Proof.Machine.DynFails (c : Cfg) (info : BitVec 32) : Prop :=
  (isFinite c.thr = false ∧ info = 0) ∨
  (isFinite c.thr = true ∧ ¬(isFinite c.ratio = true ∧ fgt c.ratio f64Zero = true) ∧ info = 1) ∨
  (isFinite c.thr = true ∧ isFinite c.ratio = true ∧ fgt c.ratio f64Zero = true ∧
    ¬(isFinite c.knee = true ∧ fge c.knee f64Zero = true) ∧ info = 2)

/-- The dynamics parameters pass R282. -/
def Sys2Proof.Machine.DynPasses (c : Cfg) : Prop :=
  isFinite c.thr = true ∧ isFinite c.ratio = true ∧ fgt c.ratio f64Zero = true ∧ isFinite c.knee = true ∧
    fge c.knee f64Zero = true

/-- A performed command's end: the slot empty and `CMD_DONE` set (R174). -/
def Sys2Proof.Machine.Ended (s : State) : State := { s with slot := none, irqStatus := s.irqStatus ||| 0x1#4 }

/-- The next event is a Host transaction to this address. -/
def Sys2Proof.Machine.Transacts (s : State) (a : BitVec 32) : Prop :=
  HostIssues s (.rd64 a) ∨ ∃ v, HostIssues s (.wr64 a v)

/-- The next step is a PROCESS that passes its checks (R181). -/
def Sys2Proof.Machine.RunsProcess (s : State) (dyn : Bool) : Prop :=
  s.mode = .idle ∧ ∃ n : BitVec 16, Performs s (.process n dyn) ∧ 1 ≤ n.toNat ∧ n.toNat ≤ s.params.nMax

/-- The events that can raise a cause: the columns "raised by" and "when" of the table of R371. -/
def Sys2Proof.Machine.RaisedBy (s : State) : Cause → Prop
  | .cmdIllegal => EngineMoves s ∧ ∃ v, s.slot = some v ∧ ¬ ∃ i, decodeCmd v = .ok i
  | .cmdState => s.mode = .running ∧ ((∃ mask, Performs s (.flush mask)) ∨ ∃ n dyn, Performs s (.process n dyn))
  | .cmdArg => s.mode = .idle ∧ ∃ n dyn, Performs s (.process n dyn) ∧ (n.toNat < 1 ∨ s.params.nMax < n.toNat)
  | .cmdBusy => s.slot ≠ none ∧ ∃ v, v ≠ 0x0000000000000001#64 ∧ HostIssues s (.wr64 0x00000010 v)
  | .cfgInvalid => Performs s .commit ∧ validate s.params s.sh ≠ none
  | .busUnmapped => ∃ a, Transacts s a ∧ a.toNat % 8 = 0 ∧ ∀ i : Item, i.exists_ s.params → i.addr ≠ a.toNat
  | .busMisaligned => ∃ a, Transacts s a ∧ a.toNat % 8 ≠ 0
  | .accessDenied => ∃ (i : Item) (a : BitVec 32), i.exists_ s.params ∧ i.addr = a.toNat ∧
      ((¬ mayRead s.mode i ∧ HostIssues s (.rd64 a)) ∨ (¬ mayWrite s.mode i ∧ ∃ v, HostIssues s (.wr64 a v)))
  | .xportOverrun => ∃ o rest, RunsBlockCycle s o rest ∧ o.ovr = true
  | .xportUnderrun => ∃ o rest, RunsBlockCycle s o rest ∧ o.udr = true
  | .xportNoData => ∃ o rest, RunsBlockCycle s o rest ∧ o.novalid = true
  | .dynRange => (∃ o rest, RunsBlockCycle s o rest) ∨ RunsProcess s true
  | .nonFinite => (∃ o rest, RunsBlockCycle s o rest) ∨ ∃ dyn, RunsProcess s dyn
  | .recOverflow => (∃ o rest, RunsBlockCycle s o rest) ∧ s.params.recCap < s.recLen.toNat + s.blockLen.toNat
  | .alreadyRunning => s.mode = .running ∧ Performs s .start
  | .regValue => s.mode = .idle ∧ ∃ v : Word, HostIssues s (.wr64 0x00000040 v) ∧
      (v.toNat % 65536 < 1 ∨ s.params.nMax < v.toNat % 65536)

/-! ### Encoding -/

/-- R141 to R144: decoding an encoding gives the instruction back, with every operand at every value its field
admits. -/
def Obligations.DecodeInvertsEncode : Prop :=
  ∀ i : Instr, i.wellFormed = true → decode (encode i) = .ok i

/-- R144, R145: a legal command word is the encoding of the one command it decodes to, so no two words mean the
same command and no legal word carries an ignored bit. -/
def Obligations.LegalWordIsItsCommandsEncoding : Prop :=
  ∀ (v : BitVec 64) (i : Instr), decodeCmd v = .ok i → encode i = .cmd v

/-- R144: each command's words are exactly those its row of the opcode table matches, each bus transaction's headers
those with its value of `W`; and FLUSH and PROCESS take their operands from the fields of R143. -/
def Obligations.LegalWordsAreTheTableRows : Prop :=
  (∀ v : BitVec 64,
    (decodeCmd v = .ok .nop ↔ v &&& 0xFFFFFFFFFFFFFFFF#64 = 0x0#64) ∧
    (decodeCmd v = .ok .reset ↔ v &&& 0xFFFFFFFFFFFFFFFF#64 = 0x1#64) ∧
    (decodeCmd v = .ok .commit ↔ v &&& 0xFFFFFFFFFFFFFFFF#64 = 0x2#64) ∧
    (decodeCmd v = .ok .start ↔ v &&& 0xFFFFFFFFFFFFFFFF#64 = 0x3#64) ∧
    (decodeCmd v = .ok .stop ↔ v &&& 0xFFFFFFFFFFFFFFFF#64 = 0x4#64) ∧
    (decodeCmd v = .ok (.flush (v.extractLsb' 8 5)) ↔ v &&& 0xFFFFFFFFFFFFE0FF#64 = 0x5#64) ∧
    (decodeCmd v = .ok (.process (v.extractLsb' 16 16) (v.getLsbD 8)) ↔ v &&& 0xFFFFFFFF0000FEFF#64 = 0x6#64) ∧
    (decodeCmd v = .ok .clrpeak ↔ v &&& 0xFFFFFFFFFFFFFFFF#64 = 0x7#64) ∧
    (∀ m, decodeCmd v = .ok (.flush m) → m = v.extractLsb' 8 5) ∧
    (∀ n dyn, decodeCmd v = .ok (.process n dyn) → n = v.extractLsb' 16 16 ∧ dyn = v.getLsbD 8)) ∧
  ∀ (h : BitVec 33) (d : BitVec 64),
    ((∃ a, decodeBus h d = .rd64 a) ↔ h.getLsbD 32 = false) ∧ ((∃ a w, decodeBus h d = .wr64 a w) ↔ h.getLsbD 32 = true)

/-- R145: which words are illegal, and that performing one raises cause 1 with `INFO = v[31:0]` and has no other
effect than the end of the command. `EngineMoves` is the model's (log 6). -/
def Obligations.IllegalWordRaisesCauseOne : Prop :=
  ∀ (s : State) (v : BitVec 64), EngineMoves s → s.slot = some v →
    ((¬ ∃ i, decodeCmd v = .ok i) ↔ (8 ≤ (v.extractLsb' 0 8).toNat ∨ v.extractLsb' 32 32 ≠ 0 ∨ MbzViolated v)) ∧
    (8 ≤ (v.extractLsb' 0 8).toNat ∨ v.extractLsb' 32 32 ≠ 0 ∨ MbzViolated v →
      step s = .next (Ended (s.popped.raise .cmdIllegal 0 (v.extractLsb' 0 32))))

/-- R141 to R144 and the encodings of 95 §3, on words written out bit by bit. -/
def Obligations.SpecWordsDecode : Prop :=
  decodeCmd 0x0000000000000000#64 = .ok .nop ∧
  decodeCmd 0x0000000000000001#64 = .ok .reset ∧
  decodeCmd 0x0000000000000002#64 = .ok .commit ∧
  decodeCmd 0x0000000000000003#64 = .ok .start ∧
  decodeCmd 0x0000000000000004#64 = .ok .stop ∧
  decodeCmd 0x0000000000000405#64 = .ok (.flush 0x04#5) ∧
  decodeCmd 0x0000000004000106#64 = .ok (.process 1024#16 true) ∧
  decodeCmd 0x0000000000000007#64 = .ok .clrpeak ∧
  decodeBus 0x000000018#33 0#64 = .rd64 0x00000018#32 ∧
  decodeBus 0x100010008#33 0x3FE0000000000000#64 = .wr64 0x00010008#32 0x3FE0000000000000#64

/-! ### Steps -/

/-- R174: the Engine performs the command the slot's word decodes to; besides `exec`, the step takes its event off
the schedule (log 6). -/
def Obligations.StepPerformsTheHeldCommand : Prop :=
  ∀ (s : State) (i : Instr), Performs s i → step s = exec i s.popped

/-- R141, R114: the next event being a Host transaction, the step is `exec` of what its header decodes to; besides
`exec`, the step takes its event off the schedule (log 6). -/
def Obligations.StepIssuesTheHostTransaction : Prop :=
  ∀ (s : State) (i : Instr), HostIssues s i → step s = exec i s.popped

/-- R341, R118: with the slot full the Engine's step performs the held command: it empties the slot and renders
nothing, and it consumes no offer unless the word is RESET's, which the slot never holds (`State.Inv.slotNotReset`)
and which drops what waits (R411). -/
def Obligations.HeldCommandComesBeforeABlockCycle : Prop :=
  ∀ (s : State) (v : BitVec 64), EngineMoves s → s.slot = some v →
    ∃ t, step s = .next t ∧ t.slot = none ∧ t.rendered = s.rendered ∧
      (v ≠ 0x0000000000000001#64 → t.offers = s.offers ∧ t.consumed = s.consumed)

/-- R424, R331: the only event with no move is an offer whose length is not `BLOCK_LEN`, when it is made or when a
block cycle meets it; every other step has a next state. -/
def Obligations.OnlyAWrongOfferHasNoMove : Prop :=
  ∀ s : State, (∃ t, step s = .next t) ∨
    (step s = .refused .offerLength ∧ ∃ o : Offer, o.novalid = false ∧ o.samples.length ≠ s.blockLen.toNat ∧
      (s.schedule.head? = some (.offer o) ∨
        (EngineMoves s ∧ s.slot = none ∧ s.mode = .running ∧ s.offers.head? = some o)))

/-! ### Reset -/

/-- R411: the state RESET leaves, register by register, in either mode and with the slot full or not (R176); an offer
still pending is consumed and dropped with no processing (R340), so that nothing is rendered; R412: the memories keep
their contents. The last read's data and the events to come are the model's and stay (log 5, 6); that the drop falls
within the reset's own event is the model's (log 7). -/
def Obligations.ResetCommandRestoresResetValues : Prop :=
  ∀ s : State, ∃ t, exec .reset s = .next t ∧
    t.slot = none ∧ t.statusReg = 0 ∧ t.errorReg = 0 ∧ t.errCauseReg = 0 ∧ t.irqStatus = 0 ∧ t.irqEn = 0 ∧
    t.blockLen.toNat = min 1024 s.params.nMax ∧
    t.recLen = 0 ∧ t.resultLen = 0 ∧ t.blkCnt = 0 ∧ t.peak = 0x0000000000000000#64 ∧
    (∀ c ∈ [t.sh, t.act],
      (∀ f ∈ [c.fir0, c.fir1], f.taps = 1 ∧ f.h.length = s.params.tMax ∧
        f.h.getD 0 0 = 0x3FF0000000000000#64 ∧ ∀ k, 1 ≤ k → f.h.getD k 0 = 0x0000000000000000#64) ∧
      (∀ b ∈ [c.band1, c.band2, c.band3], b.b0 = 0x3FF0000000000000#64 ∧ b.b1 = 0x0000000000000000#64 ∧
        b.b2 = 0x0000000000000000#64 ∧ b.a1 = 0x0000000000000000#64 ∧ b.a2 = 0x0000000000000000#64) ∧
      c.thr = 0x3FF0000000000000#64 ∧ c.ratio = 0x3FF0000000000000#64 ∧ c.knee = 0x0000000000000000#64) ∧
    t.filt.dl0 = [] ∧ t.filt.dl1 = [] ∧
    (∀ q ∈ [t.filt.bq2, t.filt.bq3, t.filt.bq4], q.s1 = 0x0000000000000000#64 ∧ q.s2 = 0x0000000000000000#64) ∧
    (∀ a, t.memByte a = s.memByte a) ∧
    t.params = s.params ∧ t.busRead = s.busRead ∧ t.offers = [] ∧ t.consumed = s.consumed ++ s.offers ∧
    t.rendered = s.rendered ∧ t.schedule = s.schedule

/-- R410, R412: the external reset leaves what RESET leaves in every register, and every element of the three
memories takes a new draw (log 3). -/
def Obligations.PowerOnResetRedrawsTheMemories : Prop :=
  ∀ s : State, s.schedule.head? = some .powerOn → ∃ t u, step s = .next t ∧ exec .reset s.popped = .next u ∧
    t = { u with mem := t.mem, powerOns := t.powerOns } ∧
    ∀ a, t.memByte a = Config.powerOnByte (s.powerOns + 1) a

/-- R173: a write to `CMD` resets at once for the word `0x1` (R176, in either mode and with the slot full), drops
the word with cause 4 when the slot is full, and else fills the slot. -/
def Obligations.CmdWriteHandsTheWordOver : Prop :=
  ∀ (s : State) (v : BitVec 64),
    exec (.wr64 0x00000010 v) s =
      if v = 0x0000000000000001#64 then exec .reset s
      else if s.slot = none then .next { s with slot := some v }
      else .next (s.raise .cmdBusy 0 (v.extractLsb' 0 32))

/-! ### Errors and status -/

/-- R373, R374: raising sets the cause's sticky bit and `IRQ_STATUS.ERR`, captures the record when every `ERROR`
bit was 0 and leaves it alone otherwise, and changes nothing else. R371: the sixteen codes, by name. -/
def Obligations.RaiseRecordsTheFirstError : Prop :=
  (Cause.code .cmdIllegal = 1 ∧ Cause.code .cmdState = 2 ∧ Cause.code .cmdArg = 3 ∧ Cause.code .cmdBusy = 4 ∧
    Cause.code .cfgInvalid = 5 ∧ Cause.code .busUnmapped = 6 ∧ Cause.code .busMisaligned = 7 ∧
    Cause.code .accessDenied = 8 ∧ Cause.code .xportOverrun = 9 ∧ Cause.code .xportUnderrun = 10 ∧
    Cause.code .xportNoData = 11 ∧ Cause.code .dynRange = 12 ∧ Cause.code .nonFinite = 13 ∧
    Cause.code .recOverflow = 14 ∧ Cause.code .alreadyRunning = 15 ∧ Cause.code .regValue = 16) ∧
  ∀ (s : State) (c : Cause) (w : BitVec 8) (i : BitVec 32),
    (s.raise c w i).errorReg = s.errorReg ||| (1#64 <<< c.code) ∧
    (s.errorReg = 0 → (s.raise c w i).errCauseReg = i ++ 0#16 ++ w ++ BitVec.ofNat 8 c.code) ∧
    (s.errorReg ≠ 0 → (s.raise c w i).errCauseReg = s.errCauseReg) ∧
    (s.raise c w i).irqStatus = s.irqStatus ||| 0x8#4 ∧
    s.raise c w i = { s with
      error := (s.raise c w i).error, errCause := (s.raise c w i).errCause, irqStatus := (s.raise c w i).irqStatus }

/-- R34, R37, R38, R381: the four bits of `STATUS`, and zero above them. -/
def Obligations.StatusShowsModeStopSlotAndLine : Prop :=
  ∀ s : State, s.statusReg.getLsbD 0 = decide (s.mode = .running) ∧ s.statusReg.getLsbD 1 = s.stopReq ∧
    s.statusReg.getLsbD 2 = s.slot.isSome ∧ s.statusReg.getLsbD 3 = decide (s.irqStatus &&& s.irqEn ≠ 0) ∧
    ∀ k, 4 ≤ k → s.statusReg.getLsbD k = false

/-- R39, R183, R425: a sticky error bit is cleared only by a Host write to `ERROR` or by a reset. -/
def Obligations.ErrorBitsStayUntilTheHostClearsThem : Prop :=
  ∀ (s t : State) (n : Nat), step s = .next t → s.error.getLsbD n = true → t.error.getLsbD n = false →
    (∃ v : Word, HostIssues s (.wr64 0x00000020 v) ∧ v.getLsbD (n + 1) = true) ∨ ResetHappens s

/-! ### Commands -/

/-- R175: `nop` has no effect but the end of the command. -/
def Obligations.NopOnlyEndsTheCommand : Prop :=
  ∀ s : State, exec .nop s = .next (Ended s) ∧ ∀ a, (Ended s).memByte a = s.memByte a

/-- R177: COMMIT of an invalid shadow configuration records cause 5 and leaves everything else; of a valid one it
applies it (R283). -/
def Obligations.CommitAppliesOrRejects : Prop :=
  ∀ s : State,
    (∀ f, validate s.params s.sh = some f → exec .commit s = .next (Ended (s.raise .cfgInvalid f.loc f.info))) ∧
    (validate s.params s.sh = none → ∃ t, exec .commit s = .next t ∧ t.act = s.sh ∧
      (s.sh.fir0.taps ≠ s.act.fir0.taps → t.filt.dl0 = List.replicate (s.sh.fir0.taps.toNat - 1) 0x0000000000000000#64) ∧
      (s.sh.fir0.taps = s.act.fir0.taps → t.filt.dl0 = s.filt.dl0) ∧
      (s.sh.fir1.taps ≠ s.act.fir1.taps → t.filt.dl1 = List.replicate (s.sh.fir1.taps.toNat - 1) 0x0000000000000000#64) ∧
      (s.sh.fir1.taps = s.act.fir1.taps → t.filt.dl1 = s.filt.dl1) ∧
      t.filt = { s.filt with dl0 := t.filt.dl0, dl1 := t.filt.dl1 } ∧
      t = { Ended s with act := t.act, filt := t.filt } ∧ ∀ a, t.memByte a = s.memByte a)

/-- R282: VALIDATE accepts exactly the configurations that pass every check, and reports the first failing item in
the order of the rule. -/
def Obligations.ValidateReportsTheFirstFailure : Prop :=
  ∀ (p : Params) (c : Cfg) (info : BitVec 32),
    (FirFails p c.fir0 info → validate p c = some ⟨0, info⟩) ∧
    (FirPasses p c.fir0 → FirFails p c.fir1 info → validate p c = some ⟨1, info⟩) ∧
    (FirPasses p c.fir0 → FirPasses p c.fir1 → BiquadFails c.band1 info → validate p c = some ⟨2, info⟩) ∧
    (FirPasses p c.fir0 → FirPasses p c.fir1 → BiquadPasses c.band1 → BiquadFails c.band2 info →
      validate p c = some ⟨3, info⟩) ∧
    (FirPasses p c.fir0 → FirPasses p c.fir1 → BiquadPasses c.band1 → BiquadPasses c.band2 →
      BiquadFails c.band3 info → validate p c = some ⟨4, info⟩) ∧
    (FirPasses p c.fir0 → FirPasses p c.fir1 → BiquadPasses c.band1 → BiquadPasses c.band2 →
      BiquadPasses c.band3 → DynFails c info → validate p c = some ⟨5, info⟩) ∧
    (validate p c = none ↔ FirPasses p c.fir0 ∧ FirPasses p c.fir1 ∧ BiquadPasses c.band1 ∧
      BiquadPasses c.band2 ∧ BiquadPasses c.band3 ∧ DynPasses c)

/-- R287: committing a configuration equal to `ACT` changes neither `ACT` nor any delay line, and committing one of
the same tap counts keeps every delay line; a valid one becomes active and changes nothing else. -/
def Obligations.RecommitKeepsTheDelayLines : Prop :=
  ∀ s : State, ∃ t, exec .commit s = .next t ∧
    (s.sh = s.act → t.act = s.act ∧ t.filt = s.filt) ∧
    (s.sh.fir0.taps = s.act.fir0.taps → s.sh.fir1.taps = s.act.fir1.taps → t.filt = s.filt ∧
      (validate s.params s.sh = none → t = { Ended s with act := s.sh }))

/-- R178: START while IDLE zeroes the filter state, the counts and `PEAK` and enters RUNNING; while RUNNING it
raises cause 15 with `INFO` the word. -/
def Obligations.StartBeginsAFreshSession : Prop :=
  ∀ s : State,
    (s.mode = .running → exec .start s = .next (Ended (s.raise .alreadyRunning 0 0x00000003#32))) ∧
    (s.mode = .idle → ∃ t, exec .start s = .next t ∧
      t.filt.dl0 = List.replicate (s.act.fir0.taps.toNat - 1) 0x0000000000000000#64 ∧
      t.filt.dl1 = List.replicate (s.act.fir1.taps.toNat - 1) 0x0000000000000000#64 ∧
      (∀ q ∈ [t.filt.bq2, t.filt.bq3, t.filt.bq4], q.s1 = 0x0000000000000000#64 ∧ q.s2 = 0x0000000000000000#64) ∧
      t = { Ended s with
        filt := t.filt, recLen := 0, resultLen := 0, blkCnt := 0, peak := 0x0000000000000000#64
        stopReq := false, mode := .running } ∧
      ∀ a, t.memByte a = s.memByte a)

/-- R179: STOP while RUNNING sets `STOP_REQ`; while IDLE it sets `RESULT_LEN` to 0; nothing else but the end of the
command. -/
def Obligations.StopRequestsTheEnd : Prop :=
  ∀ s : State,
    (s.mode = .running → exec .stop s = .next { Ended s with stopReq := true }) ∧
    (s.mode = .idle → exec .stop s = .next { Ended s with resultLen := 0 }) ∧
    ∀ t, exec .stop s = .next t → ∀ a, t.memByte a = s.memByte a

/-- R180: FLUSH zeroes the stages of the mask and no other state; while RUNNING it raises cause 2. -/
def Obligations.FlushZeroesTheMaskedStages : Prop :=
  ∀ (s : State) (mask : BitVec 5),
    (s.mode = .running →
      exec (.flush mask) s = .next (Ended (s.raise .cmdState 0 (0#19 ++ mask ++ 0x05#8)))) ∧
    (s.mode = .idle → ∃ t, exec (.flush mask) s = .next t ∧
      t.filt.dl0 = (if mask.getLsbD 0 then List.replicate (s.act.fir0.taps.toNat - 1) 0x0000000000000000#64
        else s.filt.dl0) ∧
      t.filt.dl1 = (if mask.getLsbD 1 then List.replicate (s.act.fir1.taps.toNat - 1) 0x0000000000000000#64
        else s.filt.dl1) ∧
      t.filt.bq2 = (if mask.getLsbD 2 then ⟨0x0000000000000000#64, 0x0000000000000000#64⟩ else s.filt.bq2) ∧
      t.filt.bq3 = (if mask.getLsbD 3 then ⟨0x0000000000000000#64, 0x0000000000000000#64⟩ else s.filt.bq3) ∧
      t.filt.bq4 = (if mask.getLsbD 4 then ⟨0x0000000000000000#64, 0x0000000000000000#64⟩ else s.filt.bq4) ∧
      t = { Ended s with filt := t.filt } ∧ ∀ a, t.memByte a = s.memByte a)

/-- R181, R375: PROCESS while RUNNING raises cause 2, and while IDLE with `N` outside `1..N_MAX` cause 3, with no
other effect; else it runs `IN_BUF[0..N)` through the chain and `FINISH_SAMPLE` into `OUT_BUF[0..N)`, counts the
block, and stores to no other byte. -/
def Obligations.ProcessRunsABlockOffline : Prop :=
  ∀ (s : State) (n : BitVec 16) (dyn : Bool),
    (s.mode = .running →
      exec (.process n dyn) s =
        .next (Ended (s.raise .cmdState 0 (n ++ (0#7 ++ BitVec.ofBool dyn) ++ 0x06#8)))) ∧
    (s.mode = .idle → n.toNat < 1 ∨ s.params.nMax < n.toNat →
      exec (.process n dyn) s =
        .next (Ended (s.raise .cmdArg 0 (n ++ (0#7 ++ BitVec.ofBool dyn) ++ 0x06#8)))) ∧
    (s.mode = .idle → 1 ≤ n.toNat → n.toNat ≤ s.params.nMax →
      ∃ t, exec (.process n dyn) s = .next t ∧
        t.filt = (chainBlock s.act s.filt (s.memWords 0x100000 n.toNat)).2 ∧
        t.memWords 0x200000 n.toNat =
          (finishBlock { s with filt := t.filt } dyn 0
            (chainBlock s.act s.filt (s.memWords 0x100000 n.toNat)).1).1 ∧
        (∀ a, a < 0x200000 ∨ 0x200000 + 8 * n.toNat ≤ a → t.memByte a = s.memByte a) ∧
        t = { Ended (finishBlock { s with filt := t.filt } dyn 0
            (chainBlock s.act s.filt (s.memWords 0x100000 n.toNat)).1).2 with
          mem := t.mem, blkCnt := s.blkCnt + 1 })

/-- R182: CLR_PEAK sets `PEAK` to `+0.0` in both modes and changes nothing else but the end of the command. -/
def Obligations.ClrPeakClearsOnlyThePeak : Prop :=
  ∀ s : State, ∃ t, exec .clrpeak s = .next t ∧ t = { Ended s with peak := 0x0000000000000000#64 } ∧
    ∀ a, t.memByte a = s.memByte a

/-! ### Bus transactions -/

/-- R101, R102, R103: an aligned address is mapped to an item exactly when the item exists for the parameters and
has that address. -/
def Obligations.AddressMapIsTheTable : Prop :=
  ∀ (p : Params) (a : Nat) (i : Item), a % 8 = 0 → (itemAt p a = some i ↔ i.exists_ p ∧ i.addr = a)

/-- R107: a misaligned transaction raises cause 7 with the address, before any other check; a read returns 0 (in
`busRead`, log 5), a write changes nothing else. -/
def Obligations.MisalignedTransactionIsRecorded : Prop :=
  ∀ (s : State) (a : BitVec 32) (v : BitVec 64), a.toNat % 8 ≠ 0 →
    exec (.rd64 a) s = .next { s.raise .busMisaligned 0 a with busRead := 0 } ∧
    exec (.wr64 a v) s = .next (s.raise .busMisaligned 0 a)

/-- R104: an aligned transaction to an unmapped address raises cause 6 with the address; a read returns 0 (in
`busRead`, log 5), a write changes nothing else. -/
def Obligations.UnmappedTransactionIsRecorded : Prop :=
  ∀ (s : State) (a : BitVec 32) (v : BitVec 64), a.toNat % 8 = 0 →
    (∀ i : Item, i.exists_ s.params → i.addr ≠ a.toNat) →
    exec (.rd64 a) s = .next { s.raise .busUnmapped 0 a with busRead := 0 } ∧
    exec (.wr64 a v) s = .next (s.raise .busUnmapped 0 a)

/-- R111, R112: a transaction to a mapped item that the table of R111 does not allow in this mode raises cause 8
with the address; a read returns 0 (in `busRead`, log 5), a write changes nothing else. -/
def Obligations.DeniedTransactionIsRecorded : Prop :=
  ∀ (s : State) (i : Item) (a : BitVec 32) (v : BitVec 64), i.exists_ s.params → i.addr = a.toNat →
    (¬ mayRead s.mode i → exec (.rd64 a) s = .next { s.raise .accessDenied 0 a with busRead := 0 }) ∧
    (¬ mayWrite s.mode i → exec (.wr64 a v) s = .next (s.raise .accessDenied 0 a))

/-- R171, R109: an allowed read returns the item's value and has no side effect: the control registers, the tap
counts, coefficients and dynamics parameters of the shadow and of the active configuration (R49 to R53), the delay
lines and registers (R55 to R57) and the three memories (R58 to R60), each spelled out in `Item.value`. The value is
returned in `busRead` (log 5). -/
def Obligations.AllowedReadReturnsTheItem : Prop :=
  ∀ (s : State) (i : Item) (a : BitVec 32), i.exists_ s.params → i.addr = a.toNat → mayRead s.mode i →
    exec (.rd64 a) s = .next { s with busRead := i.value s }

/-- R31 to R47: what reads of the control registers return; they are allowed in every mode. -/
def Obligations.ControlRegistersReadAsTheirRulesSay : Prop :=
  ∀ s : State,
    exec (.rd64 0x00000000) s = .next { s with busRead := 0x4453504643000001#64 } ∧
    exec (.rd64 0x00000008) s = .next { s with
      busRead := BitVec.ofNat 32 s.params.recCap ++ BitVec.ofNat 16 s.params.tMax ++ BitVec.ofNat 16 s.params.nMax } ∧
    exec (.rd64 0x00000010) s = .next { s with busRead := 0 } ∧
    exec (.rd64 0x00000018) s = .next { s with busRead := s.statusReg } ∧
    exec (.rd64 0x00000020) s = .next { s with busRead := s.errorReg } ∧
    exec (.rd64 0x00000028) s = .next { s with busRead := s.errCauseReg } ∧
    exec (.rd64 0x00000030) s = .next { s with busRead := s.irqStatus.zeroExtend 64 } ∧
    exec (.rd64 0x00000038) s = .next { s with busRead := s.irqEn.zeroExtend 64 } ∧
    exec (.rd64 0x00000040) s = .next { s with busRead := s.blockLen.zeroExtend 64 } ∧
    exec (.rd64 0x00000048) s = .next { s with busRead := s.recLen.zeroExtend 64 } ∧
    exec (.rd64 0x00000050) s = .next { s with busRead := s.resultLen.zeroExtend 64 } ∧
    exec (.rd64 0x00000058) s = .next { s with busRead := s.peak } ∧
    exec (.rd64 0x00000060) s = .next { s with busRead := s.blkCnt }

/-- R183, R184: the W1C writes clear exactly the written ones of the register's bits, and `ERR_CAUSE` stays. -/
def Obligations.WriteOneClearsStickyBits : Prop :=
  ∀ (s : State) (v : BitVec 64),
    (∃ t, exec (.wr64 0x00000020 v) s = .next t ∧ t.errorReg = s.errorReg &&& ~~~(v &&& 0x000000000001FFFE#64) ∧
      t = { s with error := t.error }) ∧
    (∃ t, exec (.wr64 0x00000030 v) s = .next t ∧
      t.irqStatus.zeroExtend 64 = s.irqStatus.zeroExtend 64 &&& ~~~(v &&& 0x000000000000000F#64) ∧
      t = { s with irqStatus := t.irqStatus })

/-- R185: while IDLE a write to `BLOCK_LEN` stores bits 15:0 when they are in `1..N_MAX` and else raises cause 16. -/
def Obligations.BlockLenTakesOnlyLegalValues : Prop :=
  ∀ (s : State) (v : BitVec 64), s.mode = .idle →
    exec (.wr64 0x00000040 v) s =
      if 1 ≤ v.toNat % 65536 ∧ v.toNat % 65536 ≤ s.params.nMax then
        .next { s with blockLen := BitVec.ofNat 16 v.toNat }
      else .next (s.raise .regValue 0 0x00000040#32)

/-- R186, R146, R120: a write to a shadow item stores the value (bits 15:0 of a tap count) with no check and changes
no other item; a write to `IRQ_EN` stores bits 3:0. Both are permitted in every mode. -/
def Obligations.ShadowWriteStoresTheValue : Prop :=
  ∀ (s : State) (c : CfgItem) (a : BitVec 32) (v : BitVec 64),
    s.sh.fir0.h.length = s.params.tMax → s.sh.fir1.h.length = s.params.tMax →
    (Item.shadow c).exists_ s.params → (Item.shadow c).addr = a.toNat →
    (∃ t, exec (.wr64 a v) s = .next t ∧ t = { s with sh := t.sh } ∧
      (Item.shadow c).value t = (match c with | .taps _ => v &&& 0x000000000000FFFF#64 | _ => v) ∧
      ∀ d, d ≠ c → (Item.shadow d).value t = (Item.shadow d).value s) ∧
    exec (.wr64 0x00000038 v) s = .next { s with irqEn := v.extractLsb' 0 4 }

/-- R187, R56: while IDLE a write to a delay-line element below the current length stores the value and leaves every
other element; beyond the length, inside the window, it is ignored and a read there returns 0. -/
def Obligations.DelayLineReloadAndWindow : Prop :=
  ∀ (s : State) (st : FirStage) (k : Nat) (a : BitVec 32) (v : BitVec 64), s.mode = .idle →
    (s.filt.dl st).length = (s.act.fir st).taps.toNat - 1 →
    k < s.params.tMax - 1 → (Item.delay st k).addr = a.toNat →
    ∃ t, exec (.wr64 a v) s = .next t ∧
      (k < (s.act.fir st).taps.toNat - 1 → t = { s with filt := t.filt } ∧ (Item.delay st k).value t = v ∧
        (∀ st' j, (st', j) ≠ (st, k) → (Item.delay st' j).value t = (Item.delay st' j).value s) ∧
        ∀ b r, (Item.bqReg b r).value t = (Item.bqReg b r).value s) ∧
      ((s.act.fir st).taps.toNat - 1 ≤ k → t = s ∧ exec (.rd64 a) s = .next { s with busRead := 0 })

/-- R187: while IDLE a write to a biquad delay register stores the value and changes nothing else. -/
def Obligations.BiquadRegisterReload : Prop :=
  ∀ (s : State) (b : BiquadStage) (r : BqReg) (a : BitVec 32) (v : BitVec 64), s.mode = .idle →
    (Item.bqReg b r).addr = a.toNat →
    ∃ t, exec (.wr64 a v) s = .next t ∧ t = { s with filt := t.filt } ∧ (Item.bqReg b r).value t = v ∧
      (∀ b' r', (b', r') ≠ (b, r) → (Item.bqReg b' r').value t = (Item.bqReg b' r').value s) ∧
      t.filt.dl0 = s.filt.dl0 ∧ t.filt.dl1 = s.filt.dl1

/-- R188: a write to `IN_BUF[i]` stores the value in both modes and changes no other byte of memory and no register. -/
def Obligations.InBufWriteStoresOneElement : Prop :=
  ∀ (s : State) (i : Nat) (a : BitVec 32) (v : BitVec 64), i < s.params.nMax → (Item.inBuf i).addr = a.toNat →
    ∃ t, exec (.wr64 a v) s = .next t ∧ t = { s with mem := t.mem } ∧ (Item.inBuf i).value t = v ∧
      ∀ b, b < 0x100000 + 8 * i ∨ 0x100000 + 8 * i + 8 ≤ b → t.memByte b = s.memByte b

/-! ### The datapath -/

/-- R242, R243: `FIR_SAMPLE` starts from `h[0] * x`, adds the older taps in order of increasing age, and then shifts
the tap state buffer. -/
def Obligations.FirSampleFollowsTheRule : Prop :=
  ∀ (c : FirCfg) (dl : List F64) (x : F64), 1 ≤ c.taps.toNat → c.taps.toNat ≤ c.h.length →
    dl.length = c.taps.toNat - 1 →
    (firSample c dl x).1 =
      (List.range (c.taps.toNat - 1)).foldl (fun acc k => fadd acc (fmul (c.h.getD (k + 1) 0) (dl.getD k 0)))
        (fmul (c.h.getD 0 0) x) ∧
    (firSample c dl x).2.length = c.taps.toNat - 1 ∧
    (2 ≤ c.taps.toNat → (firSample c dl x).2.getD 0 0 = x) ∧
    ∀ k, 1 ≤ k → k < c.taps.toNat - 1 → (firSample c dl x).2.getD k 0 = dl.getD (k - 1) 0

/-- R246: after a block the delay line holds the newest `T - 1` of the block's inputs and the older entries, newest
first. -/
def Obligations.FirBlockKeepsTheNewestInputs : Prop :=
  ∀ (c : FirCfg) (dl x : List F64), dl.length = c.taps.toNat - 1 →
    (firBlock c dl x).2 = (x.reverse ++ dl).take (c.taps.toNat - 1)

/-- R262: `BIQUAD_SAMPLE` computes both new delay registers from the old `s2` and the new output. -/
def Obligations.BiquadSampleFollowsTheRule : Prop :=
  ∀ (c : BiquadCfg) (st : BqState) (x : F64),
    (biquadSample c st x).1 = fadd (fmul c.b0 x) st.s1 ∧
    (biquadSample c st x).2.s1 =
      fadd (fsub (fmul c.b1 x) (fmul c.a1 (biquadSample c st x).1)) st.s2 ∧
    (biquadSample c st x).2.s2 = fsub (fmul c.b2 x) (fmul c.a2 (biquadSample c st x).1)

/-- R264: with `b0 = 1.0`, `b1 = a1` and `b2 = a2` (the identity coefficients among them) and zero delay registers of
either sign, a finite sample other than `-0.0` passes bit for bit and the registers stay zeros. The premise that the
products are finite is the model's: the rule's own operations overflow without it (NOTES.md). -/
def Obligations.ZeroGainBiquadPassesFiniteSamples : Prop :=
  ∀ (c : BiquadCfg) (st : BqState) (x : F64), c.b0 = 0x3FF0000000000000#64 → c.b1 = c.a1 → c.b2 = c.a2 →
    isZero st.s1 = true → isZero st.s2 = true → isFinite x = true → x ≠ 0x8000000000000000#64 →
    isFinite (fmul c.b1 x) = true → isFinite (fmul c.b2 x) = true →
    (biquadSample c st x).1 = x ∧ isZero (biquadSample c st x).2.s1 = true ∧
      isZero (biquadSample c st x).2.s2 = true

/-- R280, R281: the chain is stage 0, 1, 2, 3, 4 in this order, and running stage by stage over the block gives the
same outputs and the same final state as running each sample through all five stages in turn. -/
def Obligations.SampleMajorEqualsStageMajor : Prop :=
  ∀ (c : Cfg) (f : FilterState) (x : List F64),
    chainBlock c f x =
      x.foldl (fun (done : List F64 × FilterState) (u : F64) =>
        let u0 := firSample c.fir0 done.2.dl0 u
        let u1 := firSample c.fir1 done.2.dl1 u0.1
        let u2 := biquadSample c.band1 done.2.bq2 u1.1
        let u3 := biquadSample c.band2 done.2.bq3 u2.1
        let u4 := biquadSample c.band3 done.2.bq4 u3.1
        (done.1 ++ [u4.1], ⟨u0.2, u1.2, u2.2, u3.2, u4.2⟩)) ([], f)

/-- R286: two consecutive PROCESS commands on the parts of a signal give, bit for bit, the outputs and the final
filter state (and `PEAK`) of one PROCESS on the whole. -/
def Obligations.BlockSplitEquivalence : Prop :=
  ∀ (s : State) (n m : BitVec 16) (dyn : Bool) (x y : List F64), s.mode = .idle →
    1 ≤ n.toNat → 1 ≤ m.toNat → n.toNat + m.toNat ≤ s.params.nMax → x.length = n.toNat → y.length = m.toNat →
    ∃ t1 t2 t, exec (.process n dyn) (s.storeWords 0x100000 x) = .next t1 ∧
      exec (.process m dyn) (t1.storeWords 0x100000 y) = .next t2 ∧
      exec (.process (n + m) dyn) (s.storeWords 0x100000 (x ++ y)) = .next t ∧
      t.memWords 0x200000 (n + m).toNat = t1.memWords 0x200000 n.toNat ++ t2.memWords 0x200000 m.toNat ∧
      t.filt = t2.filt ∧ t.peak = t2.peak

/-- R312, R314: the three regions of the gain, in the order of the rule, and the output `x / gain`. -/
def Obligations.DynamicsFollowsTheThreeRegions : Prop :=
  ∀ (c : Cfg) (x : F64),
    (dynSample c x).1 = fdiv x (dynSample c x).2 ∧
    (flt (fabs x) (fsub c.thr (fmul c.knee 0x3FE0000000000000#64)) = true →
      (dynSample c x).2 = 0x3FF0000000000000#64) ∧
    (flt (fabs x) (fsub c.thr (fmul c.knee 0x3FE0000000000000#64)) = false →
      fgt (fabs x) (fadd c.thr (fmul c.knee 0x3FE0000000000000#64)) = true →
      (dynSample c x).2 = fadd 0x3FF0000000000000#64
        (fmul (fsub (fdiv 0x3FF0000000000000#64 c.ratio) 0x3FF0000000000000#64) (fsub (fabs x) c.thr))) ∧
    (flt (fabs x) (fsub c.thr (fmul c.knee 0x3FE0000000000000#64)) = false →
      fgt (fabs x) (fadd c.thr (fmul c.knee 0x3FE0000000000000#64)) = false →
      (dynSample c x).2 =
        if feq c.knee 0x0000000000000000#64 then 0x3FF0000000000000#64
        else fadd 0x3FF0000000000000#64 (fdiv
          (fmul (fsub (fdiv 0x3FF0000000000000#64 c.ratio) 0x3FF0000000000000#64)
            (fmul (fsub (fabs x) (fsub c.thr (fmul c.knee 0x3FE0000000000000#64)))
              (fsub (fabs x) (fsub c.thr (fmul c.knee 0x3FE0000000000000#64)))))
          (fmul 0x4000000000000000#64 c.knee)))

/-- R315, R54: with the reset parameters the dynamics stage is the identity on every finite sample, signed zeros
included. -/
def Obligations.ResetDynamicsIsTheIdentity : Prop :=
  ∀ (c : Cfg) (x : F64), c.thr = 0x3FF0000000000000#64 → c.ratio = 0x3FF0000000000000#64 →
    c.knee = 0x0000000000000000#64 → isFinite x = true → dynSample c x = (x, 0x3FF0000000000000#64)

/-- R289: the errors, `PEAK` and the output of `FINISH_SAMPLE`, and that it changes nothing else; the samples of a
block are finished in increasing index. -/
def Obligations.FinishSampleFollowsTheRule : Prop :=
  ∀ (s : State) (dyn : Bool) (i : Nat) (y : F64) (z g : F64),
    (z, g) = (if dyn then dynSample s.act y else (y, 0x3FF0000000000000#64)) →
    (finishSample s dyn i y).1 = z ∧
    (finishSample s dyn i y).2 =
      (let s1 := if dyn = true ∧ fgt g 0x0000000000000000#64 = false then s.raise .dynRange 0 (BitVec.ofNat 32 i) else s
       let s2 := if isFinite z = false then s1.raise .nonFinite 0 (BitVec.ofNat 32 i) else s1
       if fgt (fabs z) s.peak = true then { s2 with peak := fabs z } else s2) ∧
    ∀ ys, finishBlock s dyn i (y :: ys) =
      ((finishSample s dyn i y).1 :: (finishBlock (finishSample s dyn i y).2 dyn (i + 1) ys).1,
        (finishBlock (finishSample s dyn i y).2 dyn (i + 1) ys).2)

/-- R44: `PEAK` after a block is the old one or the magnitude of one of its outputs, and no output that is a number
is greater; the premise is an invariant (`State.Inv.peak`). -/
def Obligations.PeakIsTheLargestMagnitude : Prop :=
  ∀ (s : State) (dyn : Bool) (x : List F64), isNaN s.peak = false →
    (∀ y ∈ (s.runBlock dyn x).1, fgt (fabs y) (s.runBlock dyn x).2.peak = false) ∧
    ((s.runBlock dyn x).2.peak = s.peak ∨ ∃ y ∈ (s.runBlock dyn x).1, (s.runBlock dyn x).2.peak = fabs y) ∧
    fgt s.peak (s.runBlock dyn x).2.peak = false

/-! ### The streaming path -/

/-- R332, R333, R335, R337: a block cycle consumes the oldest offer, notes its flags, runs its samples through the
chain and the dynamics stage, renders and records the block, keeps the filter state for the next cycle, counts itself,
sets `BLOCK_DONE`, and ends the session when a stop was requested; `u` is the state when the samples are finished and
`w` the state when they are recorded. `offers`, `consumed` and `rendered` are the model's (log 7). -/
def Obligations.BlockCycleRunsTheOffer : Prop :=
  ∀ (s : State) (o : Offer) (rest : List Offer), RunsBlockCycle s o rest →
    ∃ t y u w, step s = .next t ∧
      (let x := if o.novalid then List.replicate s.blockLen.toNat 0x0000000000000000#64 else o.samples
       let r := chainBlock s.act s.filt x
       (y, u) = finishBlock { State.noteOfferFlags { s.popped with offers := rest, consumed := s.consumed ++ [o] } o with
         filt := r.2 } true 0 r.1) ∧
      w = State.record { u with rendered := s.rendered ++ [y] } y ∧
      y.length = s.blockLen.toNat ∧
      t = { w with
        blkCnt := s.blkCnt + 1
        irqStatus := if s.stopReq then w.irqStatus ||| 0x6#4 else w.irqStatus ||| 0x2#4
        mode := if s.stopReq then .idle else .running
        stopReq := false
        resultLen := if s.stopReq then w.recLen else s.resultLen }

/-- R336: a block cycle appends its samples to the recording up to `REC_MAX`; it stores to no other byte, and raises
cause 14 exactly when a sample is dropped, `INFO` being the index of the first one when no error stood before. -/
def Obligations.RecordingKeepsTheFirstSamples : Prop :=
  ∀ (s : State) (y : List F64), s.recLen.toNat ≤ s.params.recCap →
    (s.record y).recLen.toNat = min (s.recLen.toNat + y.length) s.params.recCap ∧
    (∀ i, i < y.length → s.recLen.toNat + i < s.params.recCap →
      (s.record y).memWord (0x1000000 + 8 * (s.recLen.toNat + i)) = y.getD i 0) ∧
    (∀ a, a < 0x1000000 + 8 * s.recLen.toNat ∨ 0x1000000 + 8 * (s.record y).recLen.toNat ≤ a →
      (s.record y).memByte a = s.memByte a) ∧
    (s.recLen.toNat + y.length ≤ s.params.recCap →
      s.record y = { s with mem := (s.record y).mem, recLen := (s.record y).recLen }) ∧
    (s.params.recCap < s.recLen.toNat + y.length →
      s.record y = { s.raise .recOverflow 0 (BitVec.ofNat 32 (s.params.recCap - s.recLen.toNat)) with
        mem := (s.record y).mem, recLen := (s.record y).recLen })

/-- R334, R377: the flags of an offer raise causes 9, 10 and 11 in that order and nothing else, and they are raised
first: what the block cycle does after them is the cycle of an offer with no flag set, on the samples as offered, or
on `BLOCK_LEN` zeros when none are valid. The cycle ends the session only when a stop was requested. -/
def Obligations.TransportFaultsAreLogged : Prop :=
  ∀ (s : State) (o : Offer),
    s.noteOfferFlags o =
      (let s1 := if o.ovr = true then s.raise .xportOverrun 0 0 else s
       let s2 := if o.udr = true then s1.raise .xportUnderrun 0 0 else s1
       if o.novalid = true then s2.raise .xportNoData 0 0 else s2) ∧
    (o.novalid = false →
      s.blockCycle o = (s.noteOfferFlags o).blockCycle
        { samples := o.samples, ovr := false, udr := false, novalid := false }) ∧
    (o.novalid = true →
      s.blockCycle o = (s.noteOfferFlags o).blockCycle
        { samples := List.replicate s.blockLen.toNat 0x0000000000000000#64, ovr := false, udr := false
          novalid := false }) ∧
    (s.blockCycle o).mode = (if s.stopReq then .idle else s.mode)

/-- R340: an offer made while IDLE with the slot empty is consumed and dropped: nothing changes but that the offer
is consumed; with the slot full it waits (in `offers`, log 7). -/
def Obligations.IdleOfferIsDropped : Prop :=
  ∀ (s : State) (o : Offer), s.schedule.head? = some (.offer o) → o.wellFormed s.blockLen.toNat = true →
    s.mode = .idle →
    (s.slot = none → step s = .next { s.popped with consumed := s.consumed ++ [o] }) ∧
    (s.slot ≠ none → step s = .next { s.popped with offers := s.offers ++ [o] })

/-- R332: an offer made while RUNNING waits for the Engine (in `offers`, log 7), and nothing else changes. R340: with
the slot empty, an offer that still waits while IDLE is consumed and dropped by the Engine's step, nothing else
changing (log 7); a waiting offer of a RUNNING session is `BlockCycleRunsTheOffer`. R389: with the slot empty and no
offer waiting the Engine does nothing, in either mode. -/
def Obligations.OfferWaitsForTheEngine : Prop :=
  (∀ (s : State) (o : Offer), s.schedule.head? = some (.offer o) → o.wellFormed s.blockLen.toNat = true →
    s.mode = .running → step s = .next { s.popped with offers := s.offers ++ [o] }) ∧
  (∀ (s : State) (o : Offer) (rest : List Offer), EngineMoves s → s.slot = none → s.mode = .idle →
    s.offers = o :: rest → step s = .next { s.popped with offers := rest, consumed := s.consumed ++ [o] }) ∧
  ∀ s : State, EngineMoves s → s.slot = none → s.offers = [] → step s = .next s.popped

/-! ### The whole machine -/

/-- R36, R43, R45, R53, R55 and R411: the state after reset meets the invariant, for every implementation. -/
def Obligations.ResetStateMeetsTheInvariant : Prop :=
  (∀ p : Params, (State.resetWith p).Inv) ∧ State.reset.Inv

/-- R36, R43, R45, R46, R53, R55, R173, R284: every step of every agent keeps the invariant. -/
def Obligations.EveryStepKeepsTheInvariant : Prop :=
  ∀ s t : State, s.Inv → step s = .next t → t.Inv

/-- R35, R330: `STATE` changes only by START, by the block cycle that observes the stop request, and by a reset. -/
def Obligations.ModeChangesOnlyByStartStopOrReset : Prop :=
  ∀ s t : State, step s = .next t →
    (s.mode = .idle → t.mode = .running → Performs s .start) ∧
    (s.mode = .running → t.mode = .idle →
      (s.stopReq = true ∧ ∃ o rest, RunsBlockCycle s o rest) ∨ ResetHappens s)

/-- R53, R284: `ACT` changes only by a COMMIT whose shadow configuration is valid, which makes it the shadow
configuration, and by a reset. -/
def Obligations.ActiveConfigurationChangesOnlyByCommit : Prop :=
  ∀ s t : State, step s = .next t → t.act ≠ s.act →
    (Performs s .commit ∧ validate s.params s.sh = none ∧ t.act = s.sh) ∨ ResetHappens s

/-- R285: a delay line or delay register changes only by a block cycle or PROCESS, by START, by FLUSH while IDLE, by
the COMMIT of another tap count of its stage, by a Host write while IDLE, and by a reset. -/
def Obligations.FilterStateChangesOnlyByItsSixCauses : Prop :=
  ∀ s t : State, step s = .next t → t.filt ≠ s.filt →
    (∃ o rest, RunsBlockCycle s o rest) ∨ (s.mode = .idle ∧ ∃ n dyn, Performs s (.process n dyn)) ∨
    (s.mode = .idle ∧ Performs s .start) ∨ (s.mode = .idle ∧ ∃ mask, Performs s (.flush mask)) ∨
    (Performs s .commit ∧ validate s.params s.sh = none ∧
      (s.sh.fir0.taps ≠ s.act.fir0.taps ∨ s.sh.fir1.taps ≠ s.act.fir1.taps) ∧
      t.filt = { s.filt with
        dl0 := if s.sh.fir0.taps = s.act.fir0.taps then s.filt.dl0 else t.filt.dl0
        dl1 := if s.sh.fir1.taps = s.act.fir1.taps then s.filt.dl1 else t.filt.dl1 }) ∨
    (s.mode = .idle ∧ ∃ a v i, HostIssues s (.wr64 a v) ∧ itemAt s.params a.toNat = some i ∧
      ((∃ st k, i = .delay st k) ∨ ∃ b r, i = .bqReg b r)) ∨
    ResetHappens s

/-- R120, R115: the datapath never reads the shadow configuration: a PROCESS, and a block cycle, give the same state
but for the shadow configuration itself, whatever the shadow configuration is. -/
def Obligations.DatapathIgnoresTheShadow : Prop :=
  ∀ (s : State) (c : Cfg) (n : BitVec 16) (dyn : Bool) (o : Offer),
    (∃ t, exec (.process n dyn) s = .next t ∧ exec (.process n dyn) { s with sh := c } = .next { t with sh := c }) ∧
    State.blockCycle { s with sh := c } o = { s.blockCycle o with sh := c }

/-- R111, R345, R378: while a session runs no Host transaction but the RESET word touches the session: mode, stop
flag, `BLOCK_LEN`, `ACT`, delay lines, recording, counters and `PEAK` keep their values, whatever is read or
written. -/
def Obligations.HostCannotTouchARunningSession : Prop :=
  ∀ (s : State) (i : Instr), s.mode = .running → HostIssues s i →
    i ≠ .wr64 0x00000010 0x0000000000000001 →
    ∃ t, step s = .next t ∧ t.mode = .running ∧ t.stopReq = s.stopReq ∧ t.blockLen = s.blockLen ∧ t.act = s.act ∧
      t.filt = s.filt ∧ t.recLen = s.recLen ∧ t.resultLen = s.resultLen ∧ t.blkCnt = s.blkCnt ∧ t.peak = s.peak ∧
      (∀ a, 0x200000 ≤ a → t.memByte a = s.memByte a)

/-- R188, R181, R336, R412: a byte of the sample memories changes only by a PROCESS that stores its outputs at
`OUT_BUF[0..N)`, by a block cycle that appends to the recording, by a Host write to the one element of `IN_BUF` it
addresses, and by the external reset. -/
def Obligations.MemoryChangesOnlyWhereItIsStored : Prop :=
  ∀ (s t : State) (a : Nat), step s = .next t → t.memByte a ≠ s.memByte a →
    (∃ n dyn, Performs s (.process n dyn) ∧ s.mode = .idle ∧ 1 ≤ n.toNat ∧ n.toNat ≤ s.params.nMax ∧
      0x200000 ≤ a ∧ a < 0x200000 + 8 * n.toNat) ∨
    (∃ o rest, RunsBlockCycle s o rest ∧ 0x1000000 + 8 * s.recLen.toNat ≤ a ∧
      a < 0x1000000 + 8 * t.recLen.toNat) ∨
    (∃ i addr v, HostIssues s (.wr64 addr v) ∧ i < s.params.nMax ∧ addr.toNat = 0x100000 + 8 * i ∧
      addr.toNat ≤ a ∧ a < addr.toNat + 8) ∨
    s.schedule.head? = some .powerOn

/-- R380, R371: the sources of `IRQ_STATUS` and of `ERROR`: `CMD_DONE` is set by the end of a command step,
`BLOCK_DONE` by a block cycle, `STOP_DONE` by the block cycle that observes the stop request; an `ERROR` bit rises only
in an event that the table of R371 names for its cause, and `ERR` only in such an event, with that cause's bit set. -/
def Obligations.InterruptBitsAreSetByTheirEvents : Prop :=
  ∀ s t : State, step s = .next t →
    (s.irqStatus.getLsbD 0 = false → t.irqStatus.getLsbD 0 = true → EngineMoves s ∧ s.slot ≠ none) ∧
    (s.irqStatus.getLsbD 1 = false → t.irqStatus.getLsbD 1 = true → ∃ o rest, RunsBlockCycle s o rest) ∧
    (s.irqStatus.getLsbD 2 = false → t.irqStatus.getLsbD 2 = true →
      s.stopReq = true ∧ t.mode = .idle ∧ ∃ o rest, RunsBlockCycle s o rest) ∧
    (s.irqStatus.getLsbD 3 = false → t.irqStatus.getLsbD 3 = true →
      ∃ c, RaisedBy s c ∧ t.errorReg.getLsbD c.code = true) ∧
    ∀ c, s.errorReg.getLsbD c.code = false → t.errorReg.getLsbD c.code = true → RaisedBy s c
end

