-- ==== Sys2Proof/Laws/Memory.lean ====
section
/-!
SUPPORT. The laws of the sample memories: every operation keeps the canonical form, a read after a write gives
the value written, and a write leaves every other byte alone.
-/

namespace Sys2Proof.Machine

/-! ### The canonical form -/

/-- Every address listed in a canonical memory after its first is greater than the first. -/
theorem Memory.wf_cons_iff (a : Nat) (b : Byte) (m : Memory) :
    Memory.wf ((a, b) :: m) = true ↔ (∀ c ∈ m, a < c.1) ∧ Memory.wf m = true := by
  induction m generalizing a b with
  | nil => simp [Memory.wf]
  | cons c m ih =>
    obtain ⟨a', b'⟩ := c
    have h := ih a' b'
    constructor
    · intro hw
      simp only [Memory.wf, Bool.and_eq_true, decide_eq_true_eq] at hw
      refine ⟨?_, hw.2⟩
      intro c hc
      rcases List.mem_cons.mp hc with rfl | hc
      · exact hw.1
      · exact Nat.lt_trans hw.1 ((h.mp hw.2).1 c hc)
    · rintro ⟨hlt, hw⟩
      simp only [Memory.wf, Bool.and_eq_true, decide_eq_true_eq]
      exact ⟨hlt (a', b') (List.mem_cons_self ..), hw⟩

/-- A listed address after a byte write is the written one or was listed before. -/
theorem Memory.mem_writeByte (m : Memory) (a : Nat) (b : Byte) (c : Host.Cell) (h : c ∈ m.writeByte a b) :
    c.1 = a ∨ c ∈ m := by
  induction m with
  | nil => simp_all [Memory.writeByte]
  | cons d m ih =>
    obtain ⟨a', b'⟩ := d
    simp only [Memory.writeByte] at h
    split at h
    · rcases List.mem_cons.mp h with rfl | h
      · exact .inl rfl
      · exact .inr h
    · split at h
      · rcases List.mem_cons.mp h with rfl | h
        · exact .inl rfl
        · exact .inr (List.mem_cons_of_mem _ h)
      · rcases List.mem_cons.mp h with rfl | h
        · exact .inr (List.mem_cons_self ..)
        · exact (ih h).imp id (List.mem_cons_of_mem _)

/-- A byte write keeps the canonical form. -/
theorem Memory.wf_writeByte (m : Memory) (a : Nat) (b : Byte) (h : m.wf = true) : (m.writeByte a b).wf = true := by
  induction m with
  | nil => rfl
  | cons d m ih =>
    obtain ⟨a', b'⟩ := d
    obtain ⟨hlt, hw⟩ := (Memory.wf_cons_iff a' b' m).mp h
    simp only [Memory.writeByte]
    split
    · rename_i ha
      refine (Memory.wf_cons_iff a b _).mpr ⟨?_, h⟩
      intro c hc
      rcases List.mem_cons.mp hc with rfl | hc
      · exact ha
      · exact Nat.lt_trans ha (hlt c hc)
    · split
      · rename_i _ ha
        subst ha
        exact (Memory.wf_cons_iff a b m).mpr ⟨hlt, hw⟩
      · refine (Memory.wf_cons_iff a' b' _).mpr ⟨?_, ih hw⟩
        intro c hc
        rcases Memory.mem_writeByte m a b c hc with hc | hc
        · omega
        · exact hlt c hc

/-- A word write keeps the canonical form. -/
theorem Memory.wf_writeWord (m : Memory) (a : Nat) (v : Word) (h : m.wf = true) : (m.writeWord a v).wf = true := by
  unfold Memory.writeWord
  iterate 8 apply Memory.wf_writeByte
  exact h

/-- A write of consecutive words keeps the canonical form. -/
theorem Memory.wf_writeWords (m : Memory) (a : Nat) (vs : List Word) (h : m.wf = true) :
    (m.writeWords a vs).wf = true := by
  induction vs generalizing m a with
  | nil => exact h
  | cons v vs ih => exact ih _ _ (Memory.wf_writeWord m a v h)

/-! ### Reads after writes -/

/-- A read looks at the first entry, then at the rest. -/
theorem Memory.readByte_cons (x : Nat) (y : Byte) (m : Memory) (a : Nat) :
    Memory.readByte ((x, y) :: m) a = if a = x then some y else Memory.readByte m a := by
  by_cases h : a = x
  · simp [Memory.readByte, List.lookup, h]
  · simp [Memory.readByte, List.lookup, h, beq_eq_false_iff_ne.mpr h]

/-- A byte read after a byte write: the byte written at its address, the old byte elsewhere. -/
theorem Memory.readByte_writeByte (m : Memory) (a a' : Nat) (b : Byte) :
    (m.writeByte a b).readByte a' = if a' = a then some b else m.readByte a' := by
  induction m with
  | nil => exact Memory.readByte_cons a b [] a'
  | cons d m ih =>
    obtain ⟨x, y⟩ := d
    simp only [Memory.writeByte]
    split
    · exact Memory.readByte_cons a b _ a'
    · split
      · rename_i hx
        subst hx
        simp only [Memory.readByte_cons]
        split <;> rfl
      · simp only [Memory.readByte_cons, ih]
        by_cases h : a' = x
        · simp [h, show ¬ x = a by omega]
        · simp [h]

/-- A byte read after a word write outside the eight bytes. -/
theorem Memory.readByte_writeWord_of_ne (m : Memory) (a a' : Nat) (v : Word) (h : a' < a ∨ a + 8 ≤ a') :
    (m.writeWord a v).readByte a' = m.readByte a' := by
  simp only [Memory.writeWord, Memory.readByte_writeByte]
  repeat (rw [if_neg (by omega)])

/-- A byte read after a word write inside the eight bytes: the value's bytes, little-endian (R105). -/
theorem Memory.readByte_writeWord (m : Memory) (a k : Nat) (v : Word) (h : k < 8) :
    (m.writeWord a v).readByte (a + k) = some (v.extractLsb' (8 * k) 8) := by
  simp only [Memory.writeWord, Memory.readByte_writeByte]
  interval_cases k <;> simp

/-- A byte read after consecutive word writes outside the bytes written. -/
theorem Memory.readByte_writeWords_of_ne (m : Memory) (a a' : Nat) (vs : List Word)
    (h : a' < a ∨ a + 8 * vs.length ≤ a') : (m.writeWords a vs).readByte a' = m.readByte a' := by
  induction vs generalizing m a with
  | nil => rfl
  | cons v vs ih =>
    simp only [List.length_cons] at h
    simp only [Memory.writeWords]
    rw [ih _ _ (by omega), Memory.readByte_writeWord_of_ne _ _ _ _ (by omega)]

/-- A byte read inside consecutive word writes. -/
theorem Memory.readByte_writeWords (m : Memory) (a i k : Nat) (vs : List Word) (hi : i < vs.length) (hk : k < 8) :
    (m.writeWords a vs).readByte (a + 8 * i + k) = some ((vs[i]).extractLsb' (8 * k) 8) := by
  induction vs generalizing m a i with
  | nil => simp at hi
  | cons v vs ih =>
    simp only [Memory.writeWords]
    cases i with
    | zero =>
      rw [Memory.readByte_writeWords_of_ne _ _ _ _ (by omega)]
      exact Memory.readByte_writeWord m a k v hk
    | succ i =>
      have := ih (m.writeWord a v) (a + 8) i (by simpa using hi)
      rw [show a + 8 * (i + 1) + k = a + 8 + 8 * i + k by omega, this]
      simp

/-! ### The state's view -/

/-- The eight bytes of a value put together again give the value (R105). -/
theorem wordOfBytes_extract (v : Word) :
    wordOfBytes (v.extractLsb' 0 8) (v.extractLsb' 8 8) (v.extractLsb' 16 8) (v.extractLsb' 24 8)
      (v.extractLsb' 32 8) (v.extractLsb' 40 8) (v.extractLsb' 48 8) (v.extractLsb' 56 8) = v := by
  apply BitVec.eq_of_getLsbD_eq
  intro i hi
  simp only [wordOfBytes, BitVec.getLsbD_append, BitVec.getLsbD_extractLsb']
  interval_cases i <;> rfl

/-- A stored word is read back. -/
theorem State.memWord_storeWord (s : State) (a : Nat) (v : Word) : (s.storeWord a v).memWord a = v := by
  have h : ∀ k, k < 8 → (s.storeWord a v).memByte (a + k) = v.extractLsb' (8 * k) 8 := by
    intro k hk
    simp [State.memByte, State.storeWord, Memory.readByte_writeWord _ _ _ _ hk]
  unfold State.memWord
  rw [show (s.storeWord a v).memByte a = v.extractLsb' 0 8 from h 0 (by omega), h 1 (by omega), h 2 (by omega),
    h 3 (by omega), h 4 (by omega), h 5 (by omega), h 6 (by omega), h 7 (by omega)]
  exact wordOfBytes_extract v

/-- A byte outside a stored word reads as before. -/
theorem State.memByte_storeWord_of_ne (s : State) (a a' : Nat) (v : Word) (h : a' < a ∨ a + 8 ≤ a') :
    (s.storeWord a v).memByte a' = s.memByte a' := by
  simp [State.memByte, State.storeWord, Memory.readByte_writeWord_of_ne _ _ _ _ h]

/-- A byte outside stored words reads as before. -/
theorem State.memByte_storeWords_of_ne (s : State) (a a' : Nat) (vs : List Word)
    (h : a' < a ∨ a + 8 * vs.length ≤ a') : (s.storeWords a vs).memByte a' = s.memByte a' := by
  simp [State.memByte, State.storeWords, Memory.readByte_writeWords_of_ne _ _ _ _ h]

/-- Stored words are read back. -/
theorem State.memWord_storeWords (s : State) (a i : Nat) (vs : List Word) (hi : i < vs.length) :
    (s.storeWords a vs).memWord (a + 8 * i) = vs[i] := by
  have h : ∀ k, k < 8 → (s.storeWords a vs).memByte (a + 8 * i + k) = (vs[i]).extractLsb' (8 * k) 8 := by
    intro k hk
    simp [State.memByte, State.storeWords, Memory.readByte_writeWords _ _ _ _ _ hi hk]
  unfold State.memWord
  rw [show (s.storeWords a vs).memByte (a + 8 * i) = (vs[i]).extractLsb' 0 8 from h 0 (by omega), h 1 (by omega),
    h 2 (by omega), h 3 (by omega), h 4 (by omega), h 5 (by omega), h 6 (by omega), h 7 (by omega)]
  exact wordOfBytes_extract _

@[simp] theorem State.memWords_length (s : State) (a n : Nat) : (s.memWords a n).length = n := by
  induction n generalizing a with
  | zero => rfl
  | succ n ih => simp [State.memWords, ih]

/-- The element of a run of words read from memory. -/
theorem State.memWords_getElem (s : State) (a n i : Nat) (h : i < n) :
    (s.memWords a n)[i]'(by simpa using h) = s.memWord (a + 8 * i) := by
  induction n generalizing a i with
  | zero => omega
  | succ n ih =>
    cases i with
    | zero => rfl
    | succ i =>
      simp only [State.memWords, List.getElem_cons_succ]
      rw [ih (a + 8) i (by omega)]
      congr 1
      omega

/-- Equal memories after the same power-on read alike, byte by byte. -/
theorem State.memByte_congr {s t : State} (hm : s.mem = t.mem) (hp : s.powerOns = t.powerOns) (a : Nat) :
    s.memByte a = t.memByte a := by
  unfold State.memByte
  rw [hm, hp]

/-- A word reads alike where its eight bytes do. -/
theorem State.memWord_eq_of_bytes {s t : State} (a : Nat)
    (h : ∀ k, k < 8 → s.memByte (a + k) = t.memByte (a + k)) : s.memWord a = t.memWord a := by
  unfold State.memWord
  rw [show s.memByte a = t.memByte a from h 0 (by omega), h 1 (by omega), h 2 (by omega), h 3 (by omega),
    h 4 (by omega), h 5 (by omega), h 6 (by omega), h 7 (by omega)]

/-- Equal memories after the same power-on read alike, word by word. -/
theorem State.memWord_congr {s t : State} (hm : s.mem = t.mem) (hp : s.powerOns = t.powerOns) (a : Nat) :
    s.memWord a = t.memWord a :=
  State.memWord_eq_of_bytes a fun k _ => State.memByte_congr hm hp (a + k)

/-- Equal memories after the same power-on give the same runs of words. -/
theorem State.memWords_congr {s t : State} (hm : s.mem = t.mem) (hp : s.powerOns = t.powerOns) (a n : Nat) :
    s.memWords a n = t.memWords a n := by
  induction n generalizing a with
  | zero => rfl
  | succ n ih => simp only [State.memWords, ih, State.memWord_congr hm hp]

/-- Stored words are read back as one run. -/
theorem State.memWords_storeWords (s : State) (a : Nat) (vs : List Word) :
    (s.storeWords a vs).memWords a vs.length = vs := by
  apply List.ext_getElem
  · simp
  · intro i _ hi
    rw [State.memWords_getElem _ _ _ _ hi, State.memWord_storeWords _ _ _ _ hi]

end Sys2Proof.Machine
end

