-- ==== Sys2Proof/Laws/State.lean ====
section
/-!
SUPPORT. What each update of the state does to each field, once: one lemma per field and update, so that no later
proof unfolds a record update.
-/

namespace Sys2Proof.Machine

variable (s : State)

/-! ### `setIrq` -/

@[simp] theorem State.setIrq_params (b : IrqBit) : (s.setIrq b).params = s.params := rfl
@[simp] theorem State.setIrq_mode (b : IrqBit) : (s.setIrq b).mode = s.mode := rfl
@[simp] theorem State.setIrq_stopReq (b : IrqBit) : (s.setIrq b).stopReq = s.stopReq := rfl
@[simp] theorem State.setIrq_slot (b : IrqBit) : (s.setIrq b).slot = s.slot := rfl
@[simp] theorem State.setIrq_error (b : IrqBit) : (s.setIrq b).error = s.error := rfl
@[simp] theorem State.setIrq_errCause (b : IrqBit) : (s.setIrq b).errCause = s.errCause := rfl
@[simp] theorem State.setIrq_irqStatus (b : IrqBit) : (s.setIrq b).irqStatus = s.irqStatus ||| b.mask := rfl
@[simp] theorem State.setIrq_irqEn (b : IrqBit) : (s.setIrq b).irqEn = s.irqEn := rfl
@[simp] theorem State.setIrq_blockLen (b : IrqBit) : (s.setIrq b).blockLen = s.blockLen := rfl
@[simp] theorem State.setIrq_peak (b : IrqBit) : (s.setIrq b).peak = s.peak := rfl
@[simp] theorem State.setIrq_recLen (b : IrqBit) : (s.setIrq b).recLen = s.recLen := rfl
@[simp] theorem State.setIrq_resultLen (b : IrqBit) : (s.setIrq b).resultLen = s.resultLen := rfl
@[simp] theorem State.setIrq_blkCnt (b : IrqBit) : (s.setIrq b).blkCnt = s.blkCnt := rfl
@[simp] theorem State.setIrq_sh (b : IrqBit) : (s.setIrq b).sh = s.sh := rfl
@[simp] theorem State.setIrq_act (b : IrqBit) : (s.setIrq b).act = s.act := rfl
@[simp] theorem State.setIrq_filt (b : IrqBit) : (s.setIrq b).filt = s.filt := rfl
@[simp] theorem State.setIrq_mem (b : IrqBit) : (s.setIrq b).mem = s.mem := rfl
@[simp] theorem State.setIrq_powerOns (b : IrqBit) : (s.setIrq b).powerOns = s.powerOns := rfl
@[simp] theorem State.setIrq_busRead (b : IrqBit) : (s.setIrq b).busRead = s.busRead := rfl
@[simp] theorem State.setIrq_offers (b : IrqBit) : (s.setIrq b).offers = s.offers := rfl
@[simp] theorem State.setIrq_consumed (b : IrqBit) : (s.setIrq b).consumed = s.consumed := rfl
@[simp] theorem State.setIrq_rendered (b : IrqBit) : (s.setIrq b).rendered = s.rendered := rfl
@[simp] theorem State.setIrq_schedule (b : IrqBit) : (s.setIrq b).schedule = s.schedule := rfl

/-! ### `raise` -/

@[simp] theorem State.raise_params (c : Cause) (loc : BitVec 8) (info : BitVec 32) :
    (s.raise c loc info).params = s.params := rfl
@[simp] theorem State.raise_mode (c : Cause) (loc : BitVec 8) (info : BitVec 32) :
    (s.raise c loc info).mode = s.mode := rfl
@[simp] theorem State.raise_stopReq (c : Cause) (loc : BitVec 8) (info : BitVec 32) :
    (s.raise c loc info).stopReq = s.stopReq := rfl
@[simp] theorem State.raise_slot (c : Cause) (loc : BitVec 8) (info : BitVec 32) :
    (s.raise c loc info).slot = s.slot := rfl
@[simp] theorem State.raise_error (c : Cause) (loc : BitVec 8) (info : BitVec 32) :
    (s.raise c loc info).error = s.error ||| c.mask := rfl
@[simp] theorem State.raise_errCause (c : Cause) (loc : BitVec 8) (info : BitVec 32) :
    (s.raise c loc info).errCause = if s.error = 0 then ⟨BitVec.ofNat 8 c.code, loc, info⟩ else s.errCause := rfl
@[simp] theorem State.raise_irqStatus (c : Cause) (loc : BitVec 8) (info : BitVec 32) :
    (s.raise c loc info).irqStatus = s.irqStatus ||| IrqBit.err.mask := rfl
@[simp] theorem State.raise_irqEn (c : Cause) (loc : BitVec 8) (info : BitVec 32) :
    (s.raise c loc info).irqEn = s.irqEn := rfl
@[simp] theorem State.raise_blockLen (c : Cause) (loc : BitVec 8) (info : BitVec 32) :
    (s.raise c loc info).blockLen = s.blockLen := rfl
@[simp] theorem State.raise_peak (c : Cause) (loc : BitVec 8) (info : BitVec 32) :
    (s.raise c loc info).peak = s.peak := rfl
@[simp] theorem State.raise_recLen (c : Cause) (loc : BitVec 8) (info : BitVec 32) :
    (s.raise c loc info).recLen = s.recLen := rfl
@[simp] theorem State.raise_resultLen (c : Cause) (loc : BitVec 8) (info : BitVec 32) :
    (s.raise c loc info).resultLen = s.resultLen := rfl
@[simp] theorem State.raise_blkCnt (c : Cause) (loc : BitVec 8) (info : BitVec 32) :
    (s.raise c loc info).blkCnt = s.blkCnt := rfl
@[simp] theorem State.raise_sh (c : Cause) (loc : BitVec 8) (info : BitVec 32) :
    (s.raise c loc info).sh = s.sh := rfl
@[simp] theorem State.raise_act (c : Cause) (loc : BitVec 8) (info : BitVec 32) :
    (s.raise c loc info).act = s.act := rfl
@[simp] theorem State.raise_filt (c : Cause) (loc : BitVec 8) (info : BitVec 32) :
    (s.raise c loc info).filt = s.filt := rfl
@[simp] theorem State.raise_mem (c : Cause) (loc : BitVec 8) (info : BitVec 32) :
    (s.raise c loc info).mem = s.mem := rfl
@[simp] theorem State.raise_powerOns (c : Cause) (loc : BitVec 8) (info : BitVec 32) :
    (s.raise c loc info).powerOns = s.powerOns := rfl
@[simp] theorem State.raise_busRead (c : Cause) (loc : BitVec 8) (info : BitVec 32) :
    (s.raise c loc info).busRead = s.busRead := rfl
@[simp] theorem State.raise_offers (c : Cause) (loc : BitVec 8) (info : BitVec 32) :
    (s.raise c loc info).offers = s.offers := rfl
@[simp] theorem State.raise_consumed (c : Cause) (loc : BitVec 8) (info : BitVec 32) :
    (s.raise c loc info).consumed = s.consumed := rfl
@[simp] theorem State.raise_rendered (c : Cause) (loc : BitVec 8) (info : BitVec 32) :
    (s.raise c loc info).rendered = s.rendered := rfl
@[simp] theorem State.raise_schedule (c : Cause) (loc : BitVec 8) (info : BitVec 32) :
    (s.raise c loc info).schedule = s.schedule := rfl

/-! ### `finishCommand` -/

@[simp] theorem State.finishCommand_params : (s.finishCommand).params = s.params := rfl
@[simp] theorem State.finishCommand_mode : (s.finishCommand).mode = s.mode := rfl
@[simp] theorem State.finishCommand_stopReq : (s.finishCommand).stopReq = s.stopReq := rfl
@[simp] theorem State.finishCommand_slot : (s.finishCommand).slot = none := rfl
@[simp] theorem State.finishCommand_error : (s.finishCommand).error = s.error := rfl
@[simp] theorem State.finishCommand_errCause : (s.finishCommand).errCause = s.errCause := rfl
@[simp] theorem State.finishCommand_irqStatus :
    (s.finishCommand).irqStatus = s.irqStatus ||| IrqBit.cmdDone.mask := rfl
@[simp] theorem State.finishCommand_irqEn : (s.finishCommand).irqEn = s.irqEn := rfl
@[simp] theorem State.finishCommand_blockLen : (s.finishCommand).blockLen = s.blockLen := rfl
@[simp] theorem State.finishCommand_peak : (s.finishCommand).peak = s.peak := rfl
@[simp] theorem State.finishCommand_recLen : (s.finishCommand).recLen = s.recLen := rfl
@[simp] theorem State.finishCommand_resultLen : (s.finishCommand).resultLen = s.resultLen := rfl
@[simp] theorem State.finishCommand_blkCnt : (s.finishCommand).blkCnt = s.blkCnt := rfl
@[simp] theorem State.finishCommand_sh : (s.finishCommand).sh = s.sh := rfl
@[simp] theorem State.finishCommand_act : (s.finishCommand).act = s.act := rfl
@[simp] theorem State.finishCommand_filt : (s.finishCommand).filt = s.filt := rfl
@[simp] theorem State.finishCommand_mem : (s.finishCommand).mem = s.mem := rfl
@[simp] theorem State.finishCommand_powerOns : (s.finishCommand).powerOns = s.powerOns := rfl
@[simp] theorem State.finishCommand_busRead : (s.finishCommand).busRead = s.busRead := rfl
@[simp] theorem State.finishCommand_offers : (s.finishCommand).offers = s.offers := rfl
@[simp] theorem State.finishCommand_consumed : (s.finishCommand).consumed = s.consumed := rfl
@[simp] theorem State.finishCommand_rendered : (s.finishCommand).rendered = s.rendered := rfl
@[simp] theorem State.finishCommand_schedule : (s.finishCommand).schedule = s.schedule := rfl

/-! ### `clearError` -/

@[simp] theorem State.clearError_params (v : Word) : (s.clearError v).params = s.params := rfl
@[simp] theorem State.clearError_mode (v : Word) : (s.clearError v).mode = s.mode := rfl
@[simp] theorem State.clearError_stopReq (v : Word) : (s.clearError v).stopReq = s.stopReq := rfl
@[simp] theorem State.clearError_slot (v : Word) : (s.clearError v).slot = s.slot := rfl
@[simp] theorem State.clearError_error (v : Word) :
    (s.clearError v).error = s.error &&& ~~~(v.extractLsb' 1 16) := rfl
@[simp] theorem State.clearError_errCause (v : Word) : (s.clearError v).errCause = s.errCause := rfl
@[simp] theorem State.clearError_irqStatus (v : Word) : (s.clearError v).irqStatus = s.irqStatus := rfl
@[simp] theorem State.clearError_irqEn (v : Word) : (s.clearError v).irqEn = s.irqEn := rfl
@[simp] theorem State.clearError_blockLen (v : Word) : (s.clearError v).blockLen = s.blockLen := rfl
@[simp] theorem State.clearError_peak (v : Word) : (s.clearError v).peak = s.peak := rfl
@[simp] theorem State.clearError_recLen (v : Word) : (s.clearError v).recLen = s.recLen := rfl
@[simp] theorem State.clearError_resultLen (v : Word) : (s.clearError v).resultLen = s.resultLen := rfl
@[simp] theorem State.clearError_blkCnt (v : Word) : (s.clearError v).blkCnt = s.blkCnt := rfl
@[simp] theorem State.clearError_sh (v : Word) : (s.clearError v).sh = s.sh := rfl
@[simp] theorem State.clearError_act (v : Word) : (s.clearError v).act = s.act := rfl
@[simp] theorem State.clearError_filt (v : Word) : (s.clearError v).filt = s.filt := rfl
@[simp] theorem State.clearError_mem (v : Word) : (s.clearError v).mem = s.mem := rfl
@[simp] theorem State.clearError_powerOns (v : Word) : (s.clearError v).powerOns = s.powerOns := rfl
@[simp] theorem State.clearError_busRead (v : Word) : (s.clearError v).busRead = s.busRead := rfl
@[simp] theorem State.clearError_offers (v : Word) : (s.clearError v).offers = s.offers := rfl
@[simp] theorem State.clearError_consumed (v : Word) : (s.clearError v).consumed = s.consumed := rfl
@[simp] theorem State.clearError_rendered (v : Word) : (s.clearError v).rendered = s.rendered := rfl
@[simp] theorem State.clearError_schedule (v : Word) : (s.clearError v).schedule = s.schedule := rfl

/-! ### `clearIrq` -/

@[simp] theorem State.clearIrq_params (v : Word) : (s.clearIrq v).params = s.params := rfl
@[simp] theorem State.clearIrq_mode (v : Word) : (s.clearIrq v).mode = s.mode := rfl
@[simp] theorem State.clearIrq_stopReq (v : Word) : (s.clearIrq v).stopReq = s.stopReq := rfl
@[simp] theorem State.clearIrq_slot (v : Word) : (s.clearIrq v).slot = s.slot := rfl
@[simp] theorem State.clearIrq_error (v : Word) : (s.clearIrq v).error = s.error := rfl
@[simp] theorem State.clearIrq_errCause (v : Word) : (s.clearIrq v).errCause = s.errCause := rfl
@[simp] theorem State.clearIrq_irqStatus (v : Word) :
    (s.clearIrq v).irqStatus = s.irqStatus &&& ~~~(v.extractLsb' 0 4) := rfl
@[simp] theorem State.clearIrq_irqEn (v : Word) : (s.clearIrq v).irqEn = s.irqEn := rfl
@[simp] theorem State.clearIrq_blockLen (v : Word) : (s.clearIrq v).blockLen = s.blockLen := rfl
@[simp] theorem State.clearIrq_peak (v : Word) : (s.clearIrq v).peak = s.peak := rfl
@[simp] theorem State.clearIrq_recLen (v : Word) : (s.clearIrq v).recLen = s.recLen := rfl
@[simp] theorem State.clearIrq_resultLen (v : Word) : (s.clearIrq v).resultLen = s.resultLen := rfl
@[simp] theorem State.clearIrq_blkCnt (v : Word) : (s.clearIrq v).blkCnt = s.blkCnt := rfl
@[simp] theorem State.clearIrq_sh (v : Word) : (s.clearIrq v).sh = s.sh := rfl
@[simp] theorem State.clearIrq_act (v : Word) : (s.clearIrq v).act = s.act := rfl
@[simp] theorem State.clearIrq_filt (v : Word) : (s.clearIrq v).filt = s.filt := rfl
@[simp] theorem State.clearIrq_mem (v : Word) : (s.clearIrq v).mem = s.mem := rfl
@[simp] theorem State.clearIrq_powerOns (v : Word) : (s.clearIrq v).powerOns = s.powerOns := rfl
@[simp] theorem State.clearIrq_busRead (v : Word) : (s.clearIrq v).busRead = s.busRead := rfl
@[simp] theorem State.clearIrq_offers (v : Word) : (s.clearIrq v).offers = s.offers := rfl
@[simp] theorem State.clearIrq_consumed (v : Word) : (s.clearIrq v).consumed = s.consumed := rfl
@[simp] theorem State.clearIrq_rendered (v : Word) : (s.clearIrq v).rendered = s.rendered := rfl
@[simp] theorem State.clearIrq_schedule (v : Word) : (s.clearIrq v).schedule = s.schedule := rfl

/-! ### `storeWord` -/

@[simp] theorem State.storeWord_params (a : Nat) (v : Word) : (s.storeWord a v).params = s.params := rfl
@[simp] theorem State.storeWord_mode (a : Nat) (v : Word) : (s.storeWord a v).mode = s.mode := rfl
@[simp] theorem State.storeWord_stopReq (a : Nat) (v : Word) : (s.storeWord a v).stopReq = s.stopReq := rfl
@[simp] theorem State.storeWord_slot (a : Nat) (v : Word) : (s.storeWord a v).slot = s.slot := rfl
@[simp] theorem State.storeWord_error (a : Nat) (v : Word) : (s.storeWord a v).error = s.error := rfl
@[simp] theorem State.storeWord_errCause (a : Nat) (v : Word) : (s.storeWord a v).errCause = s.errCause := rfl
@[simp] theorem State.storeWord_irqStatus (a : Nat) (v : Word) : (s.storeWord a v).irqStatus = s.irqStatus := rfl
@[simp] theorem State.storeWord_irqEn (a : Nat) (v : Word) : (s.storeWord a v).irqEn = s.irqEn := rfl
@[simp] theorem State.storeWord_blockLen (a : Nat) (v : Word) : (s.storeWord a v).blockLen = s.blockLen := rfl
@[simp] theorem State.storeWord_peak (a : Nat) (v : Word) : (s.storeWord a v).peak = s.peak := rfl
@[simp] theorem State.storeWord_recLen (a : Nat) (v : Word) : (s.storeWord a v).recLen = s.recLen := rfl
@[simp] theorem State.storeWord_resultLen (a : Nat) (v : Word) : (s.storeWord a v).resultLen = s.resultLen := rfl
@[simp] theorem State.storeWord_blkCnt (a : Nat) (v : Word) : (s.storeWord a v).blkCnt = s.blkCnt := rfl
@[simp] theorem State.storeWord_sh (a : Nat) (v : Word) : (s.storeWord a v).sh = s.sh := rfl
@[simp] theorem State.storeWord_act (a : Nat) (v : Word) : (s.storeWord a v).act = s.act := rfl
@[simp] theorem State.storeWord_filt (a : Nat) (v : Word) : (s.storeWord a v).filt = s.filt := rfl
@[simp] theorem State.storeWord_mem (a : Nat) (v : Word) : (s.storeWord a v).mem = s.mem.writeWord a v := rfl
@[simp] theorem State.storeWord_powerOns (a : Nat) (v : Word) : (s.storeWord a v).powerOns = s.powerOns := rfl
@[simp] theorem State.storeWord_busRead (a : Nat) (v : Word) : (s.storeWord a v).busRead = s.busRead := rfl
@[simp] theorem State.storeWord_offers (a : Nat) (v : Word) : (s.storeWord a v).offers = s.offers := rfl
@[simp] theorem State.storeWord_consumed (a : Nat) (v : Word) : (s.storeWord a v).consumed = s.consumed := rfl
@[simp] theorem State.storeWord_rendered (a : Nat) (v : Word) : (s.storeWord a v).rendered = s.rendered := rfl
@[simp] theorem State.storeWord_schedule (a : Nat) (v : Word) : (s.storeWord a v).schedule = s.schedule := rfl

/-! ### `storeWords` -/

@[simp] theorem State.storeWords_params (a : Nat) (vs : List Word) : (s.storeWords a vs).params = s.params := rfl
@[simp] theorem State.storeWords_mode (a : Nat) (vs : List Word) : (s.storeWords a vs).mode = s.mode := rfl
@[simp] theorem State.storeWords_stopReq (a : Nat) (vs : List Word) :
    (s.storeWords a vs).stopReq = s.stopReq := rfl
@[simp] theorem State.storeWords_slot (a : Nat) (vs : List Word) : (s.storeWords a vs).slot = s.slot := rfl
@[simp] theorem State.storeWords_error (a : Nat) (vs : List Word) : (s.storeWords a vs).error = s.error := rfl
@[simp] theorem State.storeWords_errCause (a : Nat) (vs : List Word) :
    (s.storeWords a vs).errCause = s.errCause := rfl
@[simp] theorem State.storeWords_irqStatus (a : Nat) (vs : List Word) :
    (s.storeWords a vs).irqStatus = s.irqStatus := rfl
@[simp] theorem State.storeWords_irqEn (a : Nat) (vs : List Word) : (s.storeWords a vs).irqEn = s.irqEn := rfl
@[simp] theorem State.storeWords_blockLen (a : Nat) (vs : List Word) :
    (s.storeWords a vs).blockLen = s.blockLen := rfl
@[simp] theorem State.storeWords_peak (a : Nat) (vs : List Word) : (s.storeWords a vs).peak = s.peak := rfl
@[simp] theorem State.storeWords_recLen (a : Nat) (vs : List Word) : (s.storeWords a vs).recLen = s.recLen := rfl
@[simp] theorem State.storeWords_resultLen (a : Nat) (vs : List Word) :
    (s.storeWords a vs).resultLen = s.resultLen := rfl
@[simp] theorem State.storeWords_blkCnt (a : Nat) (vs : List Word) : (s.storeWords a vs).blkCnt = s.blkCnt := rfl
@[simp] theorem State.storeWords_sh (a : Nat) (vs : List Word) : (s.storeWords a vs).sh = s.sh := rfl
@[simp] theorem State.storeWords_act (a : Nat) (vs : List Word) : (s.storeWords a vs).act = s.act := rfl
@[simp] theorem State.storeWords_filt (a : Nat) (vs : List Word) : (s.storeWords a vs).filt = s.filt := rfl
@[simp] theorem State.storeWords_mem (a : Nat) (vs : List Word) :
    (s.storeWords a vs).mem = s.mem.writeWords a vs := rfl
@[simp] theorem State.storeWords_powerOns (a : Nat) (vs : List Word) :
    (s.storeWords a vs).powerOns = s.powerOns := rfl
@[simp] theorem State.storeWords_busRead (a : Nat) (vs : List Word) :
    (s.storeWords a vs).busRead = s.busRead := rfl
@[simp] theorem State.storeWords_offers (a : Nat) (vs : List Word) : (s.storeWords a vs).offers = s.offers := rfl
@[simp] theorem State.storeWords_consumed (a : Nat) (vs : List Word) :
    (s.storeWords a vs).consumed = s.consumed := rfl
@[simp] theorem State.storeWords_rendered (a : Nat) (vs : List Word) :
    (s.storeWords a vs).rendered = s.rendered := rfl
@[simp] theorem State.storeWords_schedule (a : Nat) (vs : List Word) :
    (s.storeWords a vs).schedule = s.schedule := rfl

/-! ### `applyShadow` -/

@[simp] theorem State.applyShadow_params : (s.applyShadow).params = s.params := rfl
@[simp] theorem State.applyShadow_mode : (s.applyShadow).mode = s.mode := rfl
@[simp] theorem State.applyShadow_stopReq : (s.applyShadow).stopReq = s.stopReq := rfl
@[simp] theorem State.applyShadow_slot : (s.applyShadow).slot = s.slot := rfl
@[simp] theorem State.applyShadow_error : (s.applyShadow).error = s.error := rfl
@[simp] theorem State.applyShadow_errCause : (s.applyShadow).errCause = s.errCause := rfl
@[simp] theorem State.applyShadow_irqStatus : (s.applyShadow).irqStatus = s.irqStatus := rfl
@[simp] theorem State.applyShadow_irqEn : (s.applyShadow).irqEn = s.irqEn := rfl
@[simp] theorem State.applyShadow_blockLen : (s.applyShadow).blockLen = s.blockLen := rfl
@[simp] theorem State.applyShadow_peak : (s.applyShadow).peak = s.peak := rfl
@[simp] theorem State.applyShadow_recLen : (s.applyShadow).recLen = s.recLen := rfl
@[simp] theorem State.applyShadow_resultLen : (s.applyShadow).resultLen = s.resultLen := rfl
@[simp] theorem State.applyShadow_blkCnt : (s.applyShadow).blkCnt = s.blkCnt := rfl
@[simp] theorem State.applyShadow_sh : (s.applyShadow).sh = s.sh := rfl
@[simp] theorem State.applyShadow_act : (s.applyShadow).act = s.sh := rfl
@[simp] theorem State.applyShadow_filt :
    (s.applyShadow).filt = { s.filt with dl0 := retainOrZero s.sh.fir0 s.act.fir0 s.filt.dl0, dl1 := retainOrZero s.sh.fir1 s.act.fir1 s.filt.dl1 } := rfl
@[simp] theorem State.applyShadow_mem : (s.applyShadow).mem = s.mem := rfl
@[simp] theorem State.applyShadow_powerOns : (s.applyShadow).powerOns = s.powerOns := rfl
@[simp] theorem State.applyShadow_busRead : (s.applyShadow).busRead = s.busRead := rfl
@[simp] theorem State.applyShadow_offers : (s.applyShadow).offers = s.offers := rfl
@[simp] theorem State.applyShadow_consumed : (s.applyShadow).consumed = s.consumed := rfl
@[simp] theorem State.applyShadow_rendered : (s.applyShadow).rendered = s.rendered := rfl
@[simp] theorem State.applyShadow_schedule : (s.applyShadow).schedule = s.schedule := rfl

/-! ### `beginSession` -/

@[simp] theorem State.beginSession_params : (s.beginSession).params = s.params := rfl
@[simp] theorem State.beginSession_mode : (s.beginSession).mode = .running := rfl
@[simp] theorem State.beginSession_stopReq : (s.beginSession).stopReq = false := rfl
@[simp] theorem State.beginSession_slot : (s.beginSession).slot = s.slot := rfl
@[simp] theorem State.beginSession_error : (s.beginSession).error = s.error := rfl
@[simp] theorem State.beginSession_errCause : (s.beginSession).errCause = s.errCause := rfl
@[simp] theorem State.beginSession_irqStatus : (s.beginSession).irqStatus = s.irqStatus := rfl
@[simp] theorem State.beginSession_irqEn : (s.beginSession).irqEn = s.irqEn := rfl
@[simp] theorem State.beginSession_blockLen : (s.beginSession).blockLen = s.blockLen := rfl
@[simp] theorem State.beginSession_peak : (s.beginSession).peak = f64Zero := rfl
@[simp] theorem State.beginSession_recLen : (s.beginSession).recLen = 0 := rfl
@[simp] theorem State.beginSession_resultLen : (s.beginSession).resultLen = 0 := rfl
@[simp] theorem State.beginSession_blkCnt : (s.beginSession).blkCnt = 0 := rfl
@[simp] theorem State.beginSession_sh : (s.beginSession).sh = s.sh := rfl
@[simp] theorem State.beginSession_act : (s.beginSession).act = s.act := rfl
@[simp] theorem State.beginSession_filt : (s.beginSession).filt = s.filt.flush s.act 0x1F#5 := rfl
@[simp] theorem State.beginSession_mem : (s.beginSession).mem = s.mem := rfl
@[simp] theorem State.beginSession_powerOns : (s.beginSession).powerOns = s.powerOns := rfl
@[simp] theorem State.beginSession_busRead : (s.beginSession).busRead = s.busRead := rfl
@[simp] theorem State.beginSession_offers : (s.beginSession).offers = s.offers := rfl
@[simp] theorem State.beginSession_consumed : (s.beginSession).consumed = s.consumed := rfl
@[simp] theorem State.beginSession_rendered : (s.beginSession).rendered = s.rendered := rfl
@[simp] theorem State.beginSession_schedule : (s.beginSession).schedule = s.schedule := rfl

/-! ### `render` -/

@[simp] theorem State.render_params (y : List F64) : (s.render y).params = s.params := rfl
@[simp] theorem State.render_mode (y : List F64) : (s.render y).mode = s.mode := rfl
@[simp] theorem State.render_stopReq (y : List F64) : (s.render y).stopReq = s.stopReq := rfl
@[simp] theorem State.render_slot (y : List F64) : (s.render y).slot = s.slot := rfl
@[simp] theorem State.render_error (y : List F64) : (s.render y).error = s.error := rfl
@[simp] theorem State.render_errCause (y : List F64) : (s.render y).errCause = s.errCause := rfl
@[simp] theorem State.render_irqStatus (y : List F64) : (s.render y).irqStatus = s.irqStatus := rfl
@[simp] theorem State.render_irqEn (y : List F64) : (s.render y).irqEn = s.irqEn := rfl
@[simp] theorem State.render_blockLen (y : List F64) : (s.render y).blockLen = s.blockLen := rfl
@[simp] theorem State.render_peak (y : List F64) : (s.render y).peak = s.peak := rfl
@[simp] theorem State.render_recLen (y : List F64) : (s.render y).recLen = s.recLen := rfl
@[simp] theorem State.render_resultLen (y : List F64) : (s.render y).resultLen = s.resultLen := rfl
@[simp] theorem State.render_blkCnt (y : List F64) : (s.render y).blkCnt = s.blkCnt := rfl
@[simp] theorem State.render_sh (y : List F64) : (s.render y).sh = s.sh := rfl
@[simp] theorem State.render_act (y : List F64) : (s.render y).act = s.act := rfl
@[simp] theorem State.render_filt (y : List F64) : (s.render y).filt = s.filt := rfl
@[simp] theorem State.render_mem (y : List F64) : (s.render y).mem = s.mem := rfl
@[simp] theorem State.render_powerOns (y : List F64) : (s.render y).powerOns = s.powerOns := rfl
@[simp] theorem State.render_busRead (y : List F64) : (s.render y).busRead = s.busRead := rfl
@[simp] theorem State.render_offers (y : List F64) : (s.render y).offers = s.offers := rfl
@[simp] theorem State.render_consumed (y : List F64) : (s.render y).consumed = s.consumed := rfl
@[simp] theorem State.render_rendered (y : List F64) : (s.render y).rendered = s.rendered ++ [y] := rfl
@[simp] theorem State.render_schedule (y : List F64) : (s.render y).schedule = s.schedule := rfl

/-! ### `recordSample` -/

@[simp] theorem State.recordSample_params (y : F64) : (s.recordSample y).params = s.params := rfl
@[simp] theorem State.recordSample_mode (y : F64) : (s.recordSample y).mode = s.mode := rfl
@[simp] theorem State.recordSample_stopReq (y : F64) : (s.recordSample y).stopReq = s.stopReq := rfl
@[simp] theorem State.recordSample_slot (y : F64) : (s.recordSample y).slot = s.slot := rfl
@[simp] theorem State.recordSample_error (y : F64) : (s.recordSample y).error = s.error := rfl
@[simp] theorem State.recordSample_errCause (y : F64) : (s.recordSample y).errCause = s.errCause := rfl
@[simp] theorem State.recordSample_irqStatus (y : F64) : (s.recordSample y).irqStatus = s.irqStatus := rfl
@[simp] theorem State.recordSample_irqEn (y : F64) : (s.recordSample y).irqEn = s.irqEn := rfl
@[simp] theorem State.recordSample_blockLen (y : F64) : (s.recordSample y).blockLen = s.blockLen := rfl
@[simp] theorem State.recordSample_peak (y : F64) : (s.recordSample y).peak = s.peak := rfl
@[simp] theorem State.recordSample_recLen (y : F64) : (s.recordSample y).recLen = s.recLen + 1 := rfl
@[simp] theorem State.recordSample_resultLen (y : F64) : (s.recordSample y).resultLen = s.resultLen := rfl
@[simp] theorem State.recordSample_blkCnt (y : F64) : (s.recordSample y).blkCnt = s.blkCnt := rfl
@[simp] theorem State.recordSample_sh (y : F64) : (s.recordSample y).sh = s.sh := rfl
@[simp] theorem State.recordSample_act (y : F64) : (s.recordSample y).act = s.act := rfl
@[simp] theorem State.recordSample_filt (y : F64) : (s.recordSample y).filt = s.filt := rfl
@[simp] theorem State.recordSample_mem (y : F64) :
    (s.recordSample y).mem = s.mem.writeWord (recBase + 8 * s.recLen.toNat) y := rfl
@[simp] theorem State.recordSample_powerOns (y : F64) : (s.recordSample y).powerOns = s.powerOns := rfl
@[simp] theorem State.recordSample_busRead (y : F64) : (s.recordSample y).busRead = s.busRead := rfl
@[simp] theorem State.recordSample_offers (y : F64) : (s.recordSample y).offers = s.offers := rfl
@[simp] theorem State.recordSample_consumed (y : F64) : (s.recordSample y).consumed = s.consumed := rfl
@[simp] theorem State.recordSample_rendered (y : F64) : (s.recordSample y).rendered = s.rendered := rfl
@[simp] theorem State.recordSample_schedule (y : F64) : (s.recordSample y).schedule = s.schedule := rfl

/-! ### `consume` -/

@[simp] theorem State.consume_params (o : Offer) (rest : List Offer) : (s.consume o rest).params = s.params := rfl
@[simp] theorem State.consume_mode (o : Offer) (rest : List Offer) : (s.consume o rest).mode = s.mode := rfl
@[simp] theorem State.consume_stopReq (o : Offer) (rest : List Offer) :
    (s.consume o rest).stopReq = s.stopReq := rfl
@[simp] theorem State.consume_slot (o : Offer) (rest : List Offer) : (s.consume o rest).slot = s.slot := rfl
@[simp] theorem State.consume_error (o : Offer) (rest : List Offer) : (s.consume o rest).error = s.error := rfl
@[simp] theorem State.consume_errCause (o : Offer) (rest : List Offer) :
    (s.consume o rest).errCause = s.errCause := rfl
@[simp] theorem State.consume_irqStatus (o : Offer) (rest : List Offer) :
    (s.consume o rest).irqStatus = s.irqStatus := rfl
@[simp] theorem State.consume_irqEn (o : Offer) (rest : List Offer) : (s.consume o rest).irqEn = s.irqEn := rfl
@[simp] theorem State.consume_blockLen (o : Offer) (rest : List Offer) :
    (s.consume o rest).blockLen = s.blockLen := rfl
@[simp] theorem State.consume_peak (o : Offer) (rest : List Offer) : (s.consume o rest).peak = s.peak := rfl
@[simp] theorem State.consume_recLen (o : Offer) (rest : List Offer) : (s.consume o rest).recLen = s.recLen := rfl
@[simp] theorem State.consume_resultLen (o : Offer) (rest : List Offer) :
    (s.consume o rest).resultLen = s.resultLen := rfl
@[simp] theorem State.consume_blkCnt (o : Offer) (rest : List Offer) : (s.consume o rest).blkCnt = s.blkCnt := rfl
@[simp] theorem State.consume_sh (o : Offer) (rest : List Offer) : (s.consume o rest).sh = s.sh := rfl
@[simp] theorem State.consume_act (o : Offer) (rest : List Offer) : (s.consume o rest).act = s.act := rfl
@[simp] theorem State.consume_filt (o : Offer) (rest : List Offer) : (s.consume o rest).filt = s.filt := rfl
@[simp] theorem State.consume_mem (o : Offer) (rest : List Offer) : (s.consume o rest).mem = s.mem := rfl
@[simp] theorem State.consume_powerOns (o : Offer) (rest : List Offer) :
    (s.consume o rest).powerOns = s.powerOns := rfl
@[simp] theorem State.consume_busRead (o : Offer) (rest : List Offer) :
    (s.consume o rest).busRead = s.busRead := rfl
@[simp] theorem State.consume_offers (o : Offer) (rest : List Offer) : (s.consume o rest).offers = rest := rfl
@[simp] theorem State.consume_consumed (o : Offer) (rest : List Offer) :
    (s.consume o rest).consumed = s.consumed ++ [o] := rfl
@[simp] theorem State.consume_rendered (o : Offer) (rest : List Offer) :
    (s.consume o rest).rendered = s.rendered := rfl
@[simp] theorem State.consume_schedule (o : Offer) (rest : List Offer) :
    (s.consume o rest).schedule = s.schedule := rfl

/-! ### `softReset` -/

@[simp] theorem State.softReset_params : (s.softReset).params = s.params := rfl
@[simp] theorem State.softReset_mode : (s.softReset).mode = .idle := rfl
@[simp] theorem State.softReset_stopReq : (s.softReset).stopReq = false := rfl
@[simp] theorem State.softReset_slot : (s.softReset).slot = none := rfl
@[simp] theorem State.softReset_error : (s.softReset).error = 0 := rfl
@[simp] theorem State.softReset_errCause : (s.softReset).errCause = ErrCause.zero := rfl
@[simp] theorem State.softReset_irqStatus : (s.softReset).irqStatus = 0 := rfl
@[simp] theorem State.softReset_irqEn : (s.softReset).irqEn = 0 := rfl
@[simp] theorem State.softReset_blockLen : (s.softReset).blockLen = BitVec.ofNat 16 (min 1024 s.params.nMax) := rfl
@[simp] theorem State.softReset_peak : (s.softReset).peak = f64Zero := rfl
@[simp] theorem State.softReset_recLen : (s.softReset).recLen = 0 := rfl
@[simp] theorem State.softReset_resultLen : (s.softReset).resultLen = 0 := rfl
@[simp] theorem State.softReset_blkCnt : (s.softReset).blkCnt = 0 := rfl
@[simp] theorem State.softReset_sh : (s.softReset).sh = Cfg.reset s.params := rfl
@[simp] theorem State.softReset_act : (s.softReset).act = Cfg.reset s.params := rfl
@[simp] theorem State.softReset_filt : (s.softReset).filt = FilterState.reset := rfl
@[simp] theorem State.softReset_mem : (s.softReset).mem = s.mem := rfl
@[simp] theorem State.softReset_powerOns : (s.softReset).powerOns = s.powerOns := rfl
@[simp] theorem State.softReset_busRead : (s.softReset).busRead = s.busRead := rfl
@[simp] theorem State.softReset_offers : (s.softReset).offers = [] := rfl
@[simp] theorem State.softReset_consumed : (s.softReset).consumed = s.consumed ++ s.offers := rfl
@[simp] theorem State.softReset_rendered : (s.softReset).rendered = s.rendered := rfl
@[simp] theorem State.softReset_schedule : (s.softReset).schedule = s.schedule := rfl

/-! ### `powerOnReset` -/

@[simp] theorem State.powerOnReset_params : (s.powerOnReset).params = s.params := rfl
@[simp] theorem State.powerOnReset_mode : (s.powerOnReset).mode = .idle := rfl
@[simp] theorem State.powerOnReset_stopReq : (s.powerOnReset).stopReq = false := rfl
@[simp] theorem State.powerOnReset_slot : (s.powerOnReset).slot = none := rfl
@[simp] theorem State.powerOnReset_error : (s.powerOnReset).error = 0 := rfl
@[simp] theorem State.powerOnReset_errCause : (s.powerOnReset).errCause = ErrCause.zero := rfl
@[simp] theorem State.powerOnReset_irqStatus : (s.powerOnReset).irqStatus = 0 := rfl
@[simp] theorem State.powerOnReset_irqEn : (s.powerOnReset).irqEn = 0 := rfl
@[simp] theorem State.powerOnReset_blockLen :
    (s.powerOnReset).blockLen = BitVec.ofNat 16 (min 1024 s.params.nMax) := rfl
@[simp] theorem State.powerOnReset_peak : (s.powerOnReset).peak = f64Zero := rfl
@[simp] theorem State.powerOnReset_recLen : (s.powerOnReset).recLen = 0 := rfl
@[simp] theorem State.powerOnReset_resultLen : (s.powerOnReset).resultLen = 0 := rfl
@[simp] theorem State.powerOnReset_blkCnt : (s.powerOnReset).blkCnt = 0 := rfl
@[simp] theorem State.powerOnReset_sh : (s.powerOnReset).sh = Cfg.reset s.params := rfl
@[simp] theorem State.powerOnReset_act : (s.powerOnReset).act = Cfg.reset s.params := rfl
@[simp] theorem State.powerOnReset_filt : (s.powerOnReset).filt = FilterState.reset := rfl
@[simp] theorem State.powerOnReset_mem : (s.powerOnReset).mem = [] := rfl
@[simp] theorem State.powerOnReset_powerOns : (s.powerOnReset).powerOns = s.powerOns + 1 := rfl
@[simp] theorem State.powerOnReset_busRead : (s.powerOnReset).busRead = s.busRead := rfl
@[simp] theorem State.powerOnReset_offers : (s.powerOnReset).offers = [] := rfl
@[simp] theorem State.powerOnReset_consumed : (s.powerOnReset).consumed = s.consumed ++ s.offers := rfl
@[simp] theorem State.powerOnReset_rendered : (s.powerOnReset).rendered = s.rendered := rfl
@[simp] theorem State.powerOnReset_schedule : (s.powerOnReset).schedule = s.schedule := rfl

/-! ### `raiseIf`: the fields it never changes -/

@[simp] theorem State.raiseIf_params (p : Bool) (c : Cause) (info : BitVec 32) : (s.raiseIf p c info).params = s.params := by
  unfold State.raiseIf; split <;> rfl
@[simp] theorem State.raiseIf_mode (p : Bool) (c : Cause) (info : BitVec 32) : (s.raiseIf p c info).mode = s.mode := by
  unfold State.raiseIf; split <;> rfl
@[simp] theorem State.raiseIf_stopReq (p : Bool) (c : Cause) (info : BitVec 32) : (s.raiseIf p c info).stopReq = s.stopReq := by
  unfold State.raiseIf; split <;> rfl
@[simp] theorem State.raiseIf_slot (p : Bool) (c : Cause) (info : BitVec 32) : (s.raiseIf p c info).slot = s.slot := by
  unfold State.raiseIf; split <;> rfl
@[simp] theorem State.raiseIf_irqEn (p : Bool) (c : Cause) (info : BitVec 32) : (s.raiseIf p c info).irqEn = s.irqEn := by
  unfold State.raiseIf; split <;> rfl
@[simp] theorem State.raiseIf_blockLen (p : Bool) (c : Cause) (info : BitVec 32) : (s.raiseIf p c info).blockLen = s.blockLen := by
  unfold State.raiseIf; split <;> rfl
@[simp] theorem State.raiseIf_peak (p : Bool) (c : Cause) (info : BitVec 32) : (s.raiseIf p c info).peak = s.peak := by
  unfold State.raiseIf; split <;> rfl
@[simp] theorem State.raiseIf_recLen (p : Bool) (c : Cause) (info : BitVec 32) : (s.raiseIf p c info).recLen = s.recLen := by
  unfold State.raiseIf; split <;> rfl
@[simp] theorem State.raiseIf_resultLen (p : Bool) (c : Cause) (info : BitVec 32) : (s.raiseIf p c info).resultLen = s.resultLen := by
  unfold State.raiseIf; split <;> rfl
@[simp] theorem State.raiseIf_blkCnt (p : Bool) (c : Cause) (info : BitVec 32) : (s.raiseIf p c info).blkCnt = s.blkCnt := by
  unfold State.raiseIf; split <;> rfl
@[simp] theorem State.raiseIf_sh (p : Bool) (c : Cause) (info : BitVec 32) : (s.raiseIf p c info).sh = s.sh := by
  unfold State.raiseIf; split <;> rfl
@[simp] theorem State.raiseIf_act (p : Bool) (c : Cause) (info : BitVec 32) : (s.raiseIf p c info).act = s.act := by
  unfold State.raiseIf; split <;> rfl
@[simp] theorem State.raiseIf_filt (p : Bool) (c : Cause) (info : BitVec 32) : (s.raiseIf p c info).filt = s.filt := by
  unfold State.raiseIf; split <;> rfl
@[simp] theorem State.raiseIf_mem (p : Bool) (c : Cause) (info : BitVec 32) : (s.raiseIf p c info).mem = s.mem := by
  unfold State.raiseIf; split <;> rfl
@[simp] theorem State.raiseIf_powerOns (p : Bool) (c : Cause) (info : BitVec 32) : (s.raiseIf p c info).powerOns = s.powerOns := by
  unfold State.raiseIf; split <;> rfl
@[simp] theorem State.raiseIf_busRead (p : Bool) (c : Cause) (info : BitVec 32) : (s.raiseIf p c info).busRead = s.busRead := by
  unfold State.raiseIf; split <;> rfl
@[simp] theorem State.raiseIf_offers (p : Bool) (c : Cause) (info : BitVec 32) : (s.raiseIf p c info).offers = s.offers := by
  unfold State.raiseIf; split <;> rfl
@[simp] theorem State.raiseIf_consumed (p : Bool) (c : Cause) (info : BitVec 32) : (s.raiseIf p c info).consumed = s.consumed := by
  unfold State.raiseIf; split <;> rfl
@[simp] theorem State.raiseIf_rendered (p : Bool) (c : Cause) (info : BitVec 32) : (s.raiseIf p c info).rendered = s.rendered := by
  unfold State.raiseIf; split <;> rfl
@[simp] theorem State.raiseIf_schedule (p : Bool) (c : Cause) (info : BitVec 32) : (s.raiseIf p c info).schedule = s.schedule := by
  unfold State.raiseIf; split <;> rfl

/-! ### `notePeak`: the fields it never changes -/

@[simp] theorem State.notePeak_params (y : F64) : (s.notePeak y).params = s.params := by
  unfold State.notePeak; split <;> rfl
@[simp] theorem State.notePeak_mode (y : F64) : (s.notePeak y).mode = s.mode := by
  unfold State.notePeak; split <;> rfl
@[simp] theorem State.notePeak_stopReq (y : F64) : (s.notePeak y).stopReq = s.stopReq := by
  unfold State.notePeak; split <;> rfl
@[simp] theorem State.notePeak_slot (y : F64) : (s.notePeak y).slot = s.slot := by
  unfold State.notePeak; split <;> rfl
@[simp] theorem State.notePeak_error (y : F64) : (s.notePeak y).error = s.error := by
  unfold State.notePeak; split <;> rfl
@[simp] theorem State.notePeak_errCause (y : F64) : (s.notePeak y).errCause = s.errCause := by
  unfold State.notePeak; split <;> rfl
@[simp] theorem State.notePeak_irqStatus (y : F64) : (s.notePeak y).irqStatus = s.irqStatus := by
  unfold State.notePeak; split <;> rfl
@[simp] theorem State.notePeak_irqEn (y : F64) : (s.notePeak y).irqEn = s.irqEn := by
  unfold State.notePeak; split <;> rfl
@[simp] theorem State.notePeak_blockLen (y : F64) : (s.notePeak y).blockLen = s.blockLen := by
  unfold State.notePeak; split <;> rfl
@[simp] theorem State.notePeak_recLen (y : F64) : (s.notePeak y).recLen = s.recLen := by
  unfold State.notePeak; split <;> rfl
@[simp] theorem State.notePeak_resultLen (y : F64) : (s.notePeak y).resultLen = s.resultLen := by
  unfold State.notePeak; split <;> rfl
@[simp] theorem State.notePeak_blkCnt (y : F64) : (s.notePeak y).blkCnt = s.blkCnt := by
  unfold State.notePeak; split <;> rfl
@[simp] theorem State.notePeak_sh (y : F64) : (s.notePeak y).sh = s.sh := by
  unfold State.notePeak; split <;> rfl
@[simp] theorem State.notePeak_act (y : F64) : (s.notePeak y).act = s.act := by
  unfold State.notePeak; split <;> rfl
@[simp] theorem State.notePeak_filt (y : F64) : (s.notePeak y).filt = s.filt := by
  unfold State.notePeak; split <;> rfl
@[simp] theorem State.notePeak_mem (y : F64) : (s.notePeak y).mem = s.mem := by
  unfold State.notePeak; split <;> rfl
@[simp] theorem State.notePeak_powerOns (y : F64) : (s.notePeak y).powerOns = s.powerOns := by
  unfold State.notePeak; split <;> rfl
@[simp] theorem State.notePeak_busRead (y : F64) : (s.notePeak y).busRead = s.busRead := by
  unfold State.notePeak; split <;> rfl
@[simp] theorem State.notePeak_offers (y : F64) : (s.notePeak y).offers = s.offers := by
  unfold State.notePeak; split <;> rfl
@[simp] theorem State.notePeak_consumed (y : F64) : (s.notePeak y).consumed = s.consumed := by
  unfold State.notePeak; split <;> rfl
@[simp] theorem State.notePeak_rendered (y : F64) : (s.notePeak y).rendered = s.rendered := by
  unfold State.notePeak; split <;> rfl
@[simp] theorem State.notePeak_schedule (y : F64) : (s.notePeak y).schedule = s.schedule := by
  unfold State.notePeak; split <;> rfl

/-! ### `observeStop`: the fields it never changes -/

@[simp] theorem State.observeStop_params : (s.observeStop).params = s.params := by
  unfold State.observeStop; split <;> rfl
@[simp] theorem State.observeStop_slot : (s.observeStop).slot = s.slot := by
  unfold State.observeStop; split <;> rfl
@[simp] theorem State.observeStop_error : (s.observeStop).error = s.error := by
  unfold State.observeStop; split <;> rfl
@[simp] theorem State.observeStop_errCause : (s.observeStop).errCause = s.errCause := by
  unfold State.observeStop; split <;> rfl
@[simp] theorem State.observeStop_irqEn : (s.observeStop).irqEn = s.irqEn := by
  unfold State.observeStop; split <;> rfl
@[simp] theorem State.observeStop_blockLen : (s.observeStop).blockLen = s.blockLen := by
  unfold State.observeStop; split <;> rfl
@[simp] theorem State.observeStop_peak : (s.observeStop).peak = s.peak := by
  unfold State.observeStop; split <;> rfl
@[simp] theorem State.observeStop_recLen : (s.observeStop).recLen = s.recLen := by
  unfold State.observeStop; split <;> rfl
@[simp] theorem State.observeStop_blkCnt : (s.observeStop).blkCnt = s.blkCnt := by
  unfold State.observeStop; split <;> rfl
@[simp] theorem State.observeStop_sh : (s.observeStop).sh = s.sh := by
  unfold State.observeStop; split <;> rfl
@[simp] theorem State.observeStop_act : (s.observeStop).act = s.act := by
  unfold State.observeStop; split <;> rfl
@[simp] theorem State.observeStop_filt : (s.observeStop).filt = s.filt := by
  unfold State.observeStop; split <;> rfl
@[simp] theorem State.observeStop_mem : (s.observeStop).mem = s.mem := by
  unfold State.observeStop; split <;> rfl
@[simp] theorem State.observeStop_powerOns : (s.observeStop).powerOns = s.powerOns := by
  unfold State.observeStop; split <;> rfl
@[simp] theorem State.observeStop_busRead : (s.observeStop).busRead = s.busRead := by
  unfold State.observeStop; split <;> rfl
@[simp] theorem State.observeStop_offers : (s.observeStop).offers = s.offers := by
  unfold State.observeStop; split <;> rfl
@[simp] theorem State.observeStop_consumed : (s.observeStop).consumed = s.consumed := by
  unfold State.observeStop; split <;> rfl
@[simp] theorem State.observeStop_rendered : (s.observeStop).rendered = s.rendered := by
  unfold State.observeStop; split <;> rfl
@[simp] theorem State.observeStop_schedule : (s.observeStop).schedule = s.schedule := by
  unfold State.observeStop; split <;> rfl

end Sys2Proof.Machine
end

