-- ==== Sys2Proof/Laws/Chain.lean ====
section
/-!
SUPPORT. The laws of the datapath: lengths, the split of a block into two, and which fields `FINISH_SAMPLE`,
a block through the chain and PROCESS leave as they are.
-/

namespace Sys2Proof.Machine

/-! ### The stages -/

@[simp] theorem zeros_length (n : Nat) : (zeros n).length = n := by simp [zeros]

/-- The shift keeps the delay line's length (R243). -/
theorem firShift_length (c : FirCfg) (dl : List F64) (x : F64) (h : dl.length = c.delayLen) :
    (firShift c dl x).length = c.delayLen := by
  simp [firShift, h]

@[simp] theorem firBlock_length (c : FirCfg) (dl x : List F64) : (firBlock c dl x).1.length = x.length := by
  induction x generalizing dl with
  | nil => rfl
  | cons a x ih => simp [firBlock, ih]

/-- A FIR block keeps the delay line's length. -/
theorem firBlock_delay_length (c : FirCfg) (dl x : List F64) (h : dl.length = c.delayLen) :
    (firBlock c dl x).2.length = c.delayLen := by
  induction x generalizing dl with
  | nil => exact h
  | cons a x ih => exact ih _ (firShift_length c dl a h)

/-- A FIR block split in two: the second part starts from the delay line the first left (R244). -/
theorem firBlock_append (c : FirCfg) (dl x y : List F64) :
    firBlock c dl (x ++ y) =
      ((firBlock c dl x).1 ++ (firBlock c (firBlock c dl x).2 y).1, (firBlock c (firBlock c dl x).2 y).2) := by
  induction x generalizing dl with
  | nil => rfl
  | cons a x ih => simp [firBlock, ih]

@[simp] theorem biquadBlock_length (c : BiquadCfg) (st : BqState) (x : List F64) :
    (biquadBlock c st x).1.length = x.length := by
  induction x generalizing st with
  | nil => rfl
  | cons a x ih => simp [biquadBlock, ih]

/-- A biquad block split in two (R263). -/
theorem biquadBlock_append (c : BiquadCfg) (st : BqState) (x y : List F64) :
    biquadBlock c st (x ++ y) =
      ((biquadBlock c st x).1 ++ (biquadBlock c (biquadBlock c st x).2 y).1,
        (biquadBlock c (biquadBlock c st x).2 y).2) := by
  induction x generalizing st with
  | nil => rfl
  | cons a x ih => simp [biquadBlock, ih]

@[simp] theorem chainBlock_length (c : Cfg) (f : FilterState) (x : List F64) :
    (chainBlock c f x).1.length = x.length := by
  simp [chainBlock]

/-! ### The per-sample step and the block -/

/-! `FINISH_SAMPLE` changes the error record and `PEAK` only (R289): every other field. -/

@[simp] theorem finishSample_params (s : State) (dyn : Bool) (i : Nat) (y : F64) :
    ((finishSample s dyn i y).2).params = s.params := by simp [finishSample]

@[simp] theorem finishSample_mode (s : State) (dyn : Bool) (i : Nat) (y : F64) :
    ((finishSample s dyn i y).2).mode = s.mode := by simp [finishSample]

@[simp] theorem finishSample_stopReq (s : State) (dyn : Bool) (i : Nat) (y : F64) :
    ((finishSample s dyn i y).2).stopReq = s.stopReq := by simp [finishSample]

@[simp] theorem finishSample_slot (s : State) (dyn : Bool) (i : Nat) (y : F64) :
    ((finishSample s dyn i y).2).slot = s.slot := by simp [finishSample]

@[simp] theorem finishSample_irqEn (s : State) (dyn : Bool) (i : Nat) (y : F64) :
    ((finishSample s dyn i y).2).irqEn = s.irqEn := by simp [finishSample]

@[simp] theorem finishSample_blockLen (s : State) (dyn : Bool) (i : Nat) (y : F64) :
    ((finishSample s dyn i y).2).blockLen = s.blockLen := by simp [finishSample]

@[simp] theorem finishSample_recLen (s : State) (dyn : Bool) (i : Nat) (y : F64) :
    ((finishSample s dyn i y).2).recLen = s.recLen := by simp [finishSample]

@[simp] theorem finishSample_resultLen (s : State) (dyn : Bool) (i : Nat) (y : F64) :
    ((finishSample s dyn i y).2).resultLen = s.resultLen := by simp [finishSample]

@[simp] theorem finishSample_blkCnt (s : State) (dyn : Bool) (i : Nat) (y : F64) :
    ((finishSample s dyn i y).2).blkCnt = s.blkCnt := by simp [finishSample]

@[simp] theorem finishSample_sh (s : State) (dyn : Bool) (i : Nat) (y : F64) :
    ((finishSample s dyn i y).2).sh = s.sh := by simp [finishSample]

@[simp] theorem finishSample_act (s : State) (dyn : Bool) (i : Nat) (y : F64) :
    ((finishSample s dyn i y).2).act = s.act := by simp [finishSample]

@[simp] theorem finishSample_filt (s : State) (dyn : Bool) (i : Nat) (y : F64) :
    ((finishSample s dyn i y).2).filt = s.filt := by simp [finishSample]

@[simp] theorem finishSample_mem (s : State) (dyn : Bool) (i : Nat) (y : F64) :
    ((finishSample s dyn i y).2).mem = s.mem := by simp [finishSample]

@[simp] theorem finishSample_powerOns (s : State) (dyn : Bool) (i : Nat) (y : F64) :
    ((finishSample s dyn i y).2).powerOns = s.powerOns := by simp [finishSample]

@[simp] theorem finishSample_busRead (s : State) (dyn : Bool) (i : Nat) (y : F64) :
    ((finishSample s dyn i y).2).busRead = s.busRead := by simp [finishSample]

@[simp] theorem finishSample_offers (s : State) (dyn : Bool) (i : Nat) (y : F64) :
    ((finishSample s dyn i y).2).offers = s.offers := by simp [finishSample]

@[simp] theorem finishSample_consumed (s : State) (dyn : Bool) (i : Nat) (y : F64) :
    ((finishSample s dyn i y).2).consumed = s.consumed := by simp [finishSample]

@[simp] theorem finishSample_rendered (s : State) (dyn : Bool) (i : Nat) (y : F64) :
    ((finishSample s dyn i y).2).rendered = s.rendered := by simp [finishSample]

@[simp] theorem finishSample_schedule (s : State) (dyn : Bool) (i : Nat) (y : F64) :
    ((finishSample s dyn i y).2).schedule = s.schedule := by simp [finishSample]

@[simp] theorem finishBlock_length (s : State) (dyn : Bool) (i : Nat) (y : List F64) :
    (finishBlock s dyn i y).1.length = y.length := by
  induction y generalizing s i with
  | nil => rfl
  | cons a y ih => simp [finishBlock, ih]

/-! So do the samples of a block, one after the other. -/

@[simp] theorem finishBlock_params (s : State) (dyn : Bool) (i : Nat) (y : List F64) :
    ((finishBlock s dyn i y).2).params = s.params := by
  induction y generalizing s i with
  | nil => rfl
  | cons a y ih => simp [finishBlock, ih]

@[simp] theorem finishBlock_mode (s : State) (dyn : Bool) (i : Nat) (y : List F64) :
    ((finishBlock s dyn i y).2).mode = s.mode := by
  induction y generalizing s i with
  | nil => rfl
  | cons a y ih => simp [finishBlock, ih]

@[simp] theorem finishBlock_stopReq (s : State) (dyn : Bool) (i : Nat) (y : List F64) :
    ((finishBlock s dyn i y).2).stopReq = s.stopReq := by
  induction y generalizing s i with
  | nil => rfl
  | cons a y ih => simp [finishBlock, ih]

@[simp] theorem finishBlock_slot (s : State) (dyn : Bool) (i : Nat) (y : List F64) :
    ((finishBlock s dyn i y).2).slot = s.slot := by
  induction y generalizing s i with
  | nil => rfl
  | cons a y ih => simp [finishBlock, ih]

@[simp] theorem finishBlock_irqEn (s : State) (dyn : Bool) (i : Nat) (y : List F64) :
    ((finishBlock s dyn i y).2).irqEn = s.irqEn := by
  induction y generalizing s i with
  | nil => rfl
  | cons a y ih => simp [finishBlock, ih]

@[simp] theorem finishBlock_blockLen (s : State) (dyn : Bool) (i : Nat) (y : List F64) :
    ((finishBlock s dyn i y).2).blockLen = s.blockLen := by
  induction y generalizing s i with
  | nil => rfl
  | cons a y ih => simp [finishBlock, ih]

@[simp] theorem finishBlock_recLen (s : State) (dyn : Bool) (i : Nat) (y : List F64) :
    ((finishBlock s dyn i y).2).recLen = s.recLen := by
  induction y generalizing s i with
  | nil => rfl
  | cons a y ih => simp [finishBlock, ih]

@[simp] theorem finishBlock_resultLen (s : State) (dyn : Bool) (i : Nat) (y : List F64) :
    ((finishBlock s dyn i y).2).resultLen = s.resultLen := by
  induction y generalizing s i with
  | nil => rfl
  | cons a y ih => simp [finishBlock, ih]

@[simp] theorem finishBlock_blkCnt (s : State) (dyn : Bool) (i : Nat) (y : List F64) :
    ((finishBlock s dyn i y).2).blkCnt = s.blkCnt := by
  induction y generalizing s i with
  | nil => rfl
  | cons a y ih => simp [finishBlock, ih]

@[simp] theorem finishBlock_sh (s : State) (dyn : Bool) (i : Nat) (y : List F64) :
    ((finishBlock s dyn i y).2).sh = s.sh := by
  induction y generalizing s i with
  | nil => rfl
  | cons a y ih => simp [finishBlock, ih]

@[simp] theorem finishBlock_act (s : State) (dyn : Bool) (i : Nat) (y : List F64) :
    ((finishBlock s dyn i y).2).act = s.act := by
  induction y generalizing s i with
  | nil => rfl
  | cons a y ih => simp [finishBlock, ih]

@[simp] theorem finishBlock_filt (s : State) (dyn : Bool) (i : Nat) (y : List F64) :
    ((finishBlock s dyn i y).2).filt = s.filt := by
  induction y generalizing s i with
  | nil => rfl
  | cons a y ih => simp [finishBlock, ih]

@[simp] theorem finishBlock_mem (s : State) (dyn : Bool) (i : Nat) (y : List F64) :
    ((finishBlock s dyn i y).2).mem = s.mem := by
  induction y generalizing s i with
  | nil => rfl
  | cons a y ih => simp [finishBlock, ih]

@[simp] theorem finishBlock_powerOns (s : State) (dyn : Bool) (i : Nat) (y : List F64) :
    ((finishBlock s dyn i y).2).powerOns = s.powerOns := by
  induction y generalizing s i with
  | nil => rfl
  | cons a y ih => simp [finishBlock, ih]

@[simp] theorem finishBlock_busRead (s : State) (dyn : Bool) (i : Nat) (y : List F64) :
    ((finishBlock s dyn i y).2).busRead = s.busRead := by
  induction y generalizing s i with
  | nil => rfl
  | cons a y ih => simp [finishBlock, ih]

@[simp] theorem finishBlock_offers (s : State) (dyn : Bool) (i : Nat) (y : List F64) :
    ((finishBlock s dyn i y).2).offers = s.offers := by
  induction y generalizing s i with
  | nil => rfl
  | cons a y ih => simp [finishBlock, ih]

@[simp] theorem finishBlock_consumed (s : State) (dyn : Bool) (i : Nat) (y : List F64) :
    ((finishBlock s dyn i y).2).consumed = s.consumed := by
  induction y generalizing s i with
  | nil => rfl
  | cons a y ih => simp [finishBlock, ih]

@[simp] theorem finishBlock_rendered (s : State) (dyn : Bool) (i : Nat) (y : List F64) :
    ((finishBlock s dyn i y).2).rendered = s.rendered := by
  induction y generalizing s i with
  | nil => rfl
  | cons a y ih => simp [finishBlock, ih]

@[simp] theorem finishBlock_schedule (s : State) (dyn : Bool) (i : Nat) (y : List F64) :
    ((finishBlock s dyn i y).2).schedule = s.schedule := by
  induction y generalizing s i with
  | nil => rfl
  | cons a y ih => simp [finishBlock, ih]

/-- `FINISH_SAMPLE`'s output does not depend on anything but the active configuration. -/
theorem finishSample_output (s : State) (dyn : Bool) (i : Nat) (y : F64) :
    (finishSample s dyn i y).1 = if dyn then (dynSample s.act y).1 else y := by
  cases dyn <;> rfl

/-- The output block: each sample through the dynamics stage, or as it is (R289). -/
theorem finishBlock_output (s : State) (dyn : Bool) (i : Nat) (y : List F64) :
    (finishBlock s dyn i y).1 = if dyn then y.map (fun a => (dynSample s.act a).1) else y := by
  induction y generalizing s i with
  | nil => cases dyn <;> rfl
  | cons a y ih =>
    simp only [finishBlock, ih, finishSample_act, finishSample_output]
    cases dyn <;> rfl

@[simp] theorem State.runBlock_length (s : State) (dyn : Bool) (x : List F64) :
    (s.runBlock dyn x).1.length = x.length := by
  simp [State.runBlock]

/-! A block through the chain changes the filter state, the error record and `PEAK` only. -/

@[simp] theorem State.runBlock_params (s : State) (dyn : Bool) (x : List F64) :
    ((s.runBlock dyn x).2).params = s.params := by simp [State.runBlock]

@[simp] theorem State.runBlock_mode (s : State) (dyn : Bool) (x : List F64) :
    ((s.runBlock dyn x).2).mode = s.mode := by simp [State.runBlock]

@[simp] theorem State.runBlock_stopReq (s : State) (dyn : Bool) (x : List F64) :
    ((s.runBlock dyn x).2).stopReq = s.stopReq := by simp [State.runBlock]

@[simp] theorem State.runBlock_slot (s : State) (dyn : Bool) (x : List F64) :
    ((s.runBlock dyn x).2).slot = s.slot := by simp [State.runBlock]

@[simp] theorem State.runBlock_irqEn (s : State) (dyn : Bool) (x : List F64) :
    ((s.runBlock dyn x).2).irqEn = s.irqEn := by simp [State.runBlock]

@[simp] theorem State.runBlock_blockLen (s : State) (dyn : Bool) (x : List F64) :
    ((s.runBlock dyn x).2).blockLen = s.blockLen := by simp [State.runBlock]

@[simp] theorem State.runBlock_recLen (s : State) (dyn : Bool) (x : List F64) :
    ((s.runBlock dyn x).2).recLen = s.recLen := by simp [State.runBlock]

@[simp] theorem State.runBlock_resultLen (s : State) (dyn : Bool) (x : List F64) :
    ((s.runBlock dyn x).2).resultLen = s.resultLen := by simp [State.runBlock]

@[simp] theorem State.runBlock_blkCnt (s : State) (dyn : Bool) (x : List F64) :
    ((s.runBlock dyn x).2).blkCnt = s.blkCnt := by simp [State.runBlock]

@[simp] theorem State.runBlock_sh (s : State) (dyn : Bool) (x : List F64) :
    ((s.runBlock dyn x).2).sh = s.sh := by simp [State.runBlock]

@[simp] theorem State.runBlock_act (s : State) (dyn : Bool) (x : List F64) :
    ((s.runBlock dyn x).2).act = s.act := by simp [State.runBlock]

@[simp] theorem State.runBlock_mem (s : State) (dyn : Bool) (x : List F64) :
    ((s.runBlock dyn x).2).mem = s.mem := by simp [State.runBlock]

@[simp] theorem State.runBlock_powerOns (s : State) (dyn : Bool) (x : List F64) :
    ((s.runBlock dyn x).2).powerOns = s.powerOns := by simp [State.runBlock]

@[simp] theorem State.runBlock_busRead (s : State) (dyn : Bool) (x : List F64) :
    ((s.runBlock dyn x).2).busRead = s.busRead := by simp [State.runBlock]

@[simp] theorem State.runBlock_offers (s : State) (dyn : Bool) (x : List F64) :
    ((s.runBlock dyn x).2).offers = s.offers := by simp [State.runBlock]

@[simp] theorem State.runBlock_consumed (s : State) (dyn : Bool) (x : List F64) :
    ((s.runBlock dyn x).2).consumed = s.consumed := by simp [State.runBlock]

@[simp] theorem State.runBlock_rendered (s : State) (dyn : Bool) (x : List F64) :
    ((s.runBlock dyn x).2).rendered = s.rendered := by simp [State.runBlock]

@[simp] theorem State.runBlock_schedule (s : State) (dyn : Bool) (x : List F64) :
    ((s.runBlock dyn x).2).schedule = s.schedule := by simp [State.runBlock]

@[simp] theorem State.runBlock_filt (s : State) (dyn : Bool) (x : List F64) :
    (s.runBlock dyn x).2.filt = (chainBlock s.act s.filt x).2 := by simp [State.runBlock]

/-- The output of a block. -/
theorem State.runBlock_output (s : State) (dyn : Bool) (x : List F64) :
    (s.runBlock dyn x).1 =
      if dyn then (chainBlock s.act s.filt x).1.map (fun a => (dynSample s.act a).1)
      else (chainBlock s.act s.filt x).1 := by
  unfold State.runBlock
  rw [finishBlock_output]

/-! PROCESS changes the filter state, the error record, `PEAK`, `OUT_BUF` and `BLK_CNT` only (R181). -/

@[simp] theorem State.processBlock_params (s : State) (n : Nat) (dyn : Bool) :
    (s.processBlock n dyn).params = s.params := by simp [State.processBlock]

@[simp] theorem State.processBlock_mode (s : State) (n : Nat) (dyn : Bool) :
    (s.processBlock n dyn).mode = s.mode := by simp [State.processBlock]

@[simp] theorem State.processBlock_stopReq (s : State) (n : Nat) (dyn : Bool) :
    (s.processBlock n dyn).stopReq = s.stopReq := by simp [State.processBlock]

@[simp] theorem State.processBlock_slot (s : State) (n : Nat) (dyn : Bool) :
    (s.processBlock n dyn).slot = s.slot := by simp [State.processBlock]

@[simp] theorem State.processBlock_irqEn (s : State) (n : Nat) (dyn : Bool) :
    (s.processBlock n dyn).irqEn = s.irqEn := by simp [State.processBlock]

@[simp] theorem State.processBlock_blockLen (s : State) (n : Nat) (dyn : Bool) :
    (s.processBlock n dyn).blockLen = s.blockLen := by simp [State.processBlock]

@[simp] theorem State.processBlock_recLen (s : State) (n : Nat) (dyn : Bool) :
    (s.processBlock n dyn).recLen = s.recLen := by simp [State.processBlock]

@[simp] theorem State.processBlock_resultLen (s : State) (n : Nat) (dyn : Bool) :
    (s.processBlock n dyn).resultLen = s.resultLen := by simp [State.processBlock]

@[simp] theorem State.processBlock_sh (s : State) (n : Nat) (dyn : Bool) :
    (s.processBlock n dyn).sh = s.sh := by simp [State.processBlock]

@[simp] theorem State.processBlock_act (s : State) (n : Nat) (dyn : Bool) :
    (s.processBlock n dyn).act = s.act := by simp [State.processBlock]

@[simp] theorem State.processBlock_powerOns (s : State) (n : Nat) (dyn : Bool) :
    (s.processBlock n dyn).powerOns = s.powerOns := by simp [State.processBlock]

@[simp] theorem State.processBlock_busRead (s : State) (n : Nat) (dyn : Bool) :
    (s.processBlock n dyn).busRead = s.busRead := by simp [State.processBlock]

@[simp] theorem State.processBlock_offers (s : State) (n : Nat) (dyn : Bool) :
    (s.processBlock n dyn).offers = s.offers := by simp [State.processBlock]

@[simp] theorem State.processBlock_consumed (s : State) (n : Nat) (dyn : Bool) :
    (s.processBlock n dyn).consumed = s.consumed := by simp [State.processBlock]

@[simp] theorem State.processBlock_rendered (s : State) (n : Nat) (dyn : Bool) :
    (s.processBlock n dyn).rendered = s.rendered := by simp [State.processBlock]

@[simp] theorem State.processBlock_schedule (s : State) (n : Nat) (dyn : Bool) :
    (s.processBlock n dyn).schedule = s.schedule := by simp [State.processBlock]

@[simp] theorem State.processBlock_filt (s : State) (n : Nat) (dyn : Bool) :
    (s.processBlock n dyn).filt = (chainBlock s.act s.filt (s.memWords inBase n)).2 := by simp [State.processBlock]

@[simp] theorem State.processBlock_mem (s : State) (n : Nat) (dyn : Bool) :
    (s.processBlock n dyn).mem = s.mem.writeWords outBase (s.runBlock dyn (s.memWords inBase n)).1 := by
  simp [State.processBlock]

@[simp] theorem State.processBlock_blkCnt (s : State) (n : Nat) (dyn : Bool) :
    (s.processBlock n dyn).blkCnt = s.blkCnt + 1 := by simp [State.processBlock]

/-- PROCESS stores to `OUT_BUF[0..n)` only (R181). -/
theorem State.processBlock_memByte (s : State) (n a : Nat) (dyn : Bool) (h : a < outBase ∨ outBase + 8 * n ≤ a) :
    (s.processBlock n dyn).memByte a = s.memByte a := by
  have hl : (s.runBlock dyn (s.memWords inBase n)).1.length = n := by simp
  have hc := State.memByte_congr (t := s.storeWords outBase (s.runBlock dyn (s.memWords inBase n)).1)
    (State.processBlock_mem s n dyn) (State.processBlock_powerOns s n dyn) a
  exact hc.trans (State.memByte_storeWords_of_ne s outBase a _ (by rw [hl]; exact h))

/-- The chain on a block split in two: the second part starts from the filter state the first left (R286). -/
theorem chainBlock_append (c : Cfg) (f : FilterState) (x y : List F64) :
    chainBlock c f (x ++ y) =
      ((chainBlock c f x).1 ++ (chainBlock c (chainBlock c f x).2 y).1,
        (chainBlock c (chainBlock c f x).2 y).2) := by
  simp [chainBlock, firBlock_append, biquadBlock_append]

/-- A block keeps the delay lines' lengths (R55). -/
theorem chainBlock_delay_length (c : Cfg) (f : FilterState) (x : List F64)
    (h : f.dl0.length = c.fir0.delayLen ∧ f.dl1.length = c.fir1.delayLen) :
    (chainBlock c f x).2.dl0.length = c.fir0.delayLen ∧ (chainBlock c f x).2.dl1.length = c.fir1.delayLen :=
  ⟨firBlock_delay_length _ _ _ h.1, firBlock_delay_length _ _ _ h.2⟩

/-- `PEAK` after one sample (R289). -/
theorem finishSample_peak (s : State) (dyn : Bool) (i : Nat) (y : F64) :
    (finishSample s dyn i y).2.peak =
      if fgt (fabs (finishSample s dyn i y).1) s.peak then fabs (finishSample s dyn i y).1 else s.peak := by
  have h : ∀ (u : State) (z : F64), (u.notePeak z).peak = if fgt (fabs z) u.peak then fabs z else u.peak := by
    intro u z
    unfold State.notePeak
    split <;> rfl
  simp only [finishSample, h, State.raiseIf_peak]
  rfl

/-- `PEAK` after a block depends on the old `PEAK` and the block's outputs only. -/
theorem finishBlock_peak (s : State) (dyn : Bool) (i : Nat) (y : List F64) :
    (finishBlock s dyn i y).2.peak =
      (finishBlock s dyn i y).1.foldl (fun p z => if fgt (fabs z) p then fabs z else p) s.peak := by
  induction y generalizing s i with
  | nil => rfl
  | cons a y ih => simp only [finishBlock, ih, List.foldl_cons, finishSample_peak]

/-- An error bit that is set stays set when an error is raised (R373). -/
theorem State.raise_keeps_error (s : State) (c : Cause) (loc : BitVec 8) (info : BitVec 32) (n : Nat)
    (h : s.error.getLsbD n = true) : (s.raise c loc info).error.getLsbD n = true := by
  simp [State.raise_error, BitVec.getLsbD_or, h]

theorem State.raiseIf_keeps_error (s : State) (p : Bool) (c : Cause) (info : BitVec 32) (n : Nat)
    (h : s.error.getLsbD n = true) : (s.raiseIf p c info).error.getLsbD n = true := by
  unfold State.raiseIf
  split
  · exact State.raise_keeps_error _ _ _ _ _ h
  · exact h

theorem finishBlock_keeps_error (s : State) (dyn : Bool) (i : Nat) (y : List F64) (n : Nat)
    (h : s.error.getLsbD n = true) : (finishBlock s dyn i y).2.error.getLsbD n = true := by
  induction y generalizing s i with
  | nil => exact h
  | cons a y ih =>
    refine ih _ _ ?_
    have hp : ∀ (u : State) (z : F64), (u.notePeak z).error = u.error := by
      intro u z
      unfold State.notePeak
      split <;> rfl
    simp only [finishSample, hp]
    exact State.raiseIf_keeps_error _ _ _ _ _ (State.raiseIf_keeps_error _ _ _ _ _ h)

/-! ### The commands by case -/

theorem execProcess_running (s : State) (n : BitVec 16) (dyn : Bool) (h : s.mode = .running) :
    execProcess n dyn s = .next (s.raise .cmdState 0 (cmdInfo (.process n dyn))).finishCommand := by
  simp [execProcess, h]

theorem execProcess_badLength (s : State) (n : BitVec 16) (dyn : Bool) (h : s.mode = .idle)
    (hn : n.toNat < 1 ∨ s.params.nMax < n.toNat) :
    execProcess n dyn s = .next (s.raise .cmdArg 0 (cmdInfo (.process n dyn))).finishCommand := by
  simp only [execProcess, h, hn, if_true]

theorem execProcess_idle (s : State) (n : BitVec 16) (dyn : Bool) (h : s.mode = .idle) (h1 : 1 ≤ n.toNat)
    (h2 : n.toNat ≤ s.params.nMax) : execProcess n dyn s = .next (s.processBlock n.toNat dyn).finishCommand := by
  have hn : ¬(n.toNat < 1 ∨ s.params.nMax < n.toNat) := by omega
  simp only [execProcess, h, hn, if_false]

theorem execCommit_rejected (s : State) (f : CfgFailure) (h : validate s.params s.sh = some f) :
    execCommit s = .next (s.raise .cfgInvalid f.loc f.info).finishCommand := by
  simp [execCommit, h]

theorem execCommit_applied (s : State) (h : validate s.params s.sh = none) :
    execCommit s = .next s.applyShadow.finishCommand := by
  simp [execCommit, h]

end Sys2Proof.Machine
end

