-- ==== Sys2Proof/Laws/Decode.lean ====
section
/-!
SUPPORT. The fields of a command word, and what the decoder of a legal one answered.
-/

namespace Sys2Proof

/-- A word whose bits 63:32 are zero is made of its three fields (R142). -/
theorem cmdWord_fields (v : BitVec 64) (h : cmdHigh v = 0) : cmdWord (cmdOp v) (cmdA8 v) (cmdA16 v) = v := by
  have hh : v.toNat / 2 ^ 32 % 2 ^ 32 = 0 := by
    have := congrArg BitVec.toNat h
    simpa [cmdHigh, Nat.shiftRight_eq_div_pow] using this
  have := v.isLt
  apply BitVec.eq_of_toNat_eq
  simp only [cmdWord, cmdOp, cmdA8, cmdA16, BitVec.toNat_append, BitVec.extractLsb'_toNat,
    Nat.shiftRight_eq_div_pow, BitVec.toNat_zero, Nat.zero_shiftLeft, Nat.zero_or]
  rw [← Nat.shiftLeft_add_eq_or_of_lt (Nat.mod_lt _ (by norm_num)),
    ← Nat.shiftLeft_add_eq_or_of_lt (Nat.mod_lt _ (by norm_num))]
  simp only [Nat.shiftLeft_eq]
  omega

/-- An eight-bit field is its upper bits and its lower bits: `A8` of FLUSH and of PROCESS (R143). -/
theorem append_fields (a : BitVec 8) (n m : Nat) (h : n + m = 8) :
    (a.extractLsb' m n ++ a.extractLsb' 0 m).cast h = a := by
  apply BitVec.eq_of_getLsbD_eq
  intro i hi
  simp only [BitVec.getLsbD_cast, BitVec.getLsbD_append, BitVec.getLsbD_extractLsb']
  by_cases hm : i < m
  · simp [hm]
  · simp only [hm, if_false, show i - m < n by omega, decide_true, Bool.true_and]
    congr 1
    omega

/-- A masked match, bit by bit (R144). -/
theorem and_eq_iff (v m c : BitVec 64) :
    v &&& m = c ↔ ∀ i, i < 64 → (v.getLsbD i && m.getLsbD i) = c.getLsbD i := by
  constructor
  · rintro rfl i _
    simp
  · intro h
    exact BitVec.eq_of_getLsbD_eq fun i hi => by simpa using h i hi

/-- A field, bit by bit. -/
theorem extract_eq_iff (v : BitVec 64) (s n : Nat) (k : BitVec n) :
    v.extractLsb' s n = k ↔ ∀ i, i < n → v.getLsbD (s + i) = k.getLsbD i := by
  constructor
  · rintro rfl i hi
    simp [hi]
  · intro h
    exact BitVec.eq_of_getLsbD_eq fun i hi => by simpa [hi] using h i hi

/-- A field the mask covers is the match's field. -/
theorem field_of_mask {v m c : BitVec 64} (h : v &&& m = c) (s n : Nat)
    (hm : ∀ i, i < n → m.getLsbD (s + i) = true) : v.extractLsb' s n = c.extractLsb' s n := by
  subst h
  exact BitVec.eq_of_getLsbD_eq fun i hi => by simp [hi, hm i hi]

/-- What `decodePlain` accepts. -/
theorem decodePlain_ok (v : BitVec 64) (i j : Instr) (h : decodePlain v i = .ok j) :
    cmdA8 v = 0 ∧ cmdA16 v = 0 ∧ j = i := by
  unfold decodePlain at h
  split at h
  · cases h
  rename_i h8
  split at h
  · cases h
  rename_i h16
  cases h
  exact ⟨not_not.mp h8, not_not.mp h16, rfl⟩

/-- What `decodeFlush` accepts. -/
theorem decodeFlush_ok (v : BitVec 64) (j : Instr) (h : decodeFlush v = .ok j) :
    (cmdA8 v).extractLsb' 5 3 = 0 ∧ cmdA16 v = 0 ∧ j = .flush ((cmdA8 v).extractLsb' 0 5) := by
  unfold decodeFlush at h
  split at h
  · cases h
  rename_i h8
  split at h
  · cases h
  rename_i h16
  cases h
  exact ⟨not_not.mp h8, not_not.mp h16, rfl⟩

/-- What `decodeProcess` accepts. -/
theorem decodeProcess_ok (v : BitVec 64) (j : Instr) (h : decodeProcess v = .ok j) :
    (cmdA8 v).extractLsb' 1 7 = 0 ∧ j = .process (cmdA16 v) ((cmdA8 v).getLsbD 0) := by
  unfold decodeProcess at h
  split at h
  · cases h
  rename_i h8
  cases h
  exact ⟨not_not.mp h8, rfl⟩

/-- Which decoder a legal word went to (R144). -/
theorem decodeCmd_ok (v : BitVec 64) (i : Instr) (h : decodeCmd v = .ok i) :
    cmdHigh v = 0 ∧
      ((∃ op j, (op, j) ∈ [(0x00#8, Instr.nop), (0x01#8, .reset), (0x02#8, .commit), (0x03#8, .start),
          (0x04#8, .stop), (0x07#8, .clrpeak)] ∧ cmdOp v = op ∧ decodePlain v j = .ok i) ∨
        (cmdOp v = 0x05#8 ∧ decodeFlush v = .ok i) ∨ (cmdOp v = 0x06#8 ∧ decodeProcess v = .ok i)) := by
  unfold decodeCmd at h
  split at h
  · cases h
  rename_i hh
  refine ⟨not_not.mp hh, ?_⟩
  split at h
  · rename_i ho
    exact .inl ⟨_, _, by simp, ho, h⟩
  split at h
  · rename_i ho
    exact .inl ⟨_, _, by simp, ho, h⟩
  split at h
  · rename_i ho
    exact .inl ⟨_, _, by simp, ho, h⟩
  split at h
  · rename_i ho
    exact .inl ⟨_, _, by simp, ho, h⟩
  split at h
  · rename_i ho
    exact .inl ⟨_, _, by simp, ho, h⟩
  split at h
  · rename_i ho
    exact .inr (.inl ⟨ho, h⟩)
  split at h
  · rename_i ho
    exact .inr (.inr ⟨ho, h⟩)
  split at h
  · rename_i ho
    exact .inl ⟨_, _, by simp, ho, h⟩
  cases h

/-- A command word decodes to no bus transaction (R140). -/
theorem decodeCmd_not_bus (v : BitVec 64) (a : BitVec 32) (d : BitVec 64) :
    decodeCmd v ≠ .ok (.rd64 a) ∧ decodeCmd v ≠ .ok (.wr64 a d) := by
  constructor <;>
  · intro h
    rcases (decodeCmd_ok v _ h).2 with ⟨op, j, hm, -, hp⟩ | ⟨-, hp⟩ | ⟨-, hp⟩
    · have := (decodePlain_ok v j _ hp).2.2
      subst this
      simp at hm
    · cases (decodeFlush_ok v _ hp).2.2
    · cases (decodeProcess_ok v _ hp).2

end Sys2Proof
end

