-- ==== Sys2Proof/Laws/Streaming.lean ====
section
/-!
SUPPORT. The laws of the streaming pipeline: what recording and a block cycle change.
-/

namespace Sys2Proof.Machine

/-! The loop of `RECORD` changes `REC_BUF` and `REC_LEN` only (R336). -/

@[simp] theorem recordLoop_params (s : State) (i : Nat) (d : Option Nat) (y : List F64) :
    ((recordLoop s i d y).1).params = s.params := by
  induction y generalizing s i d with
  | nil => rfl
  | cons a y ih => simp only [recordLoop]; split <;> simp [ih]

@[simp] theorem recordLoop_mode (s : State) (i : Nat) (d : Option Nat) (y : List F64) :
    ((recordLoop s i d y).1).mode = s.mode := by
  induction y generalizing s i d with
  | nil => rfl
  | cons a y ih => simp only [recordLoop]; split <;> simp [ih]

@[simp] theorem recordLoop_stopReq (s : State) (i : Nat) (d : Option Nat) (y : List F64) :
    ((recordLoop s i d y).1).stopReq = s.stopReq := by
  induction y generalizing s i d with
  | nil => rfl
  | cons a y ih => simp only [recordLoop]; split <;> simp [ih]

@[simp] theorem recordLoop_slot (s : State) (i : Nat) (d : Option Nat) (y : List F64) :
    ((recordLoop s i d y).1).slot = s.slot := by
  induction y generalizing s i d with
  | nil => rfl
  | cons a y ih => simp only [recordLoop]; split <;> simp [ih]

@[simp] theorem recordLoop_error (s : State) (i : Nat) (d : Option Nat) (y : List F64) :
    ((recordLoop s i d y).1).error = s.error := by
  induction y generalizing s i d with
  | nil => rfl
  | cons a y ih => simp only [recordLoop]; split <;> simp [ih]

@[simp] theorem recordLoop_errCause (s : State) (i : Nat) (d : Option Nat) (y : List F64) :
    ((recordLoop s i d y).1).errCause = s.errCause := by
  induction y generalizing s i d with
  | nil => rfl
  | cons a y ih => simp only [recordLoop]; split <;> simp [ih]

@[simp] theorem recordLoop_irqStatus (s : State) (i : Nat) (d : Option Nat) (y : List F64) :
    ((recordLoop s i d y).1).irqStatus = s.irqStatus := by
  induction y generalizing s i d with
  | nil => rfl
  | cons a y ih => simp only [recordLoop]; split <;> simp [ih]

@[simp] theorem recordLoop_irqEn (s : State) (i : Nat) (d : Option Nat) (y : List F64) :
    ((recordLoop s i d y).1).irqEn = s.irqEn := by
  induction y generalizing s i d with
  | nil => rfl
  | cons a y ih => simp only [recordLoop]; split <;> simp [ih]

@[simp] theorem recordLoop_blockLen (s : State) (i : Nat) (d : Option Nat) (y : List F64) :
    ((recordLoop s i d y).1).blockLen = s.blockLen := by
  induction y generalizing s i d with
  | nil => rfl
  | cons a y ih => simp only [recordLoop]; split <;> simp [ih]

@[simp] theorem recordLoop_peak (s : State) (i : Nat) (d : Option Nat) (y : List F64) :
    ((recordLoop s i d y).1).peak = s.peak := by
  induction y generalizing s i d with
  | nil => rfl
  | cons a y ih => simp only [recordLoop]; split <;> simp [ih]

@[simp] theorem recordLoop_resultLen (s : State) (i : Nat) (d : Option Nat) (y : List F64) :
    ((recordLoop s i d y).1).resultLen = s.resultLen := by
  induction y generalizing s i d with
  | nil => rfl
  | cons a y ih => simp only [recordLoop]; split <;> simp [ih]

@[simp] theorem recordLoop_blkCnt (s : State) (i : Nat) (d : Option Nat) (y : List F64) :
    ((recordLoop s i d y).1).blkCnt = s.blkCnt := by
  induction y generalizing s i d with
  | nil => rfl
  | cons a y ih => simp only [recordLoop]; split <;> simp [ih]

@[simp] theorem recordLoop_sh (s : State) (i : Nat) (d : Option Nat) (y : List F64) :
    ((recordLoop s i d y).1).sh = s.sh := by
  induction y generalizing s i d with
  | nil => rfl
  | cons a y ih => simp only [recordLoop]; split <;> simp [ih]

@[simp] theorem recordLoop_act (s : State) (i : Nat) (d : Option Nat) (y : List F64) :
    ((recordLoop s i d y).1).act = s.act := by
  induction y generalizing s i d with
  | nil => rfl
  | cons a y ih => simp only [recordLoop]; split <;> simp [ih]

@[simp] theorem recordLoop_filt (s : State) (i : Nat) (d : Option Nat) (y : List F64) :
    ((recordLoop s i d y).1).filt = s.filt := by
  induction y generalizing s i d with
  | nil => rfl
  | cons a y ih => simp only [recordLoop]; split <;> simp [ih]

@[simp] theorem recordLoop_powerOns (s : State) (i : Nat) (d : Option Nat) (y : List F64) :
    ((recordLoop s i d y).1).powerOns = s.powerOns := by
  induction y generalizing s i d with
  | nil => rfl
  | cons a y ih => simp only [recordLoop]; split <;> simp [ih]

@[simp] theorem recordLoop_busRead (s : State) (i : Nat) (d : Option Nat) (y : List F64) :
    ((recordLoop s i d y).1).busRead = s.busRead := by
  induction y generalizing s i d with
  | nil => rfl
  | cons a y ih => simp only [recordLoop]; split <;> simp [ih]

@[simp] theorem recordLoop_offers (s : State) (i : Nat) (d : Option Nat) (y : List F64) :
    ((recordLoop s i d y).1).offers = s.offers := by
  induction y generalizing s i d with
  | nil => rfl
  | cons a y ih => simp only [recordLoop]; split <;> simp [ih]

@[simp] theorem recordLoop_consumed (s : State) (i : Nat) (d : Option Nat) (y : List F64) :
    ((recordLoop s i d y).1).consumed = s.consumed := by
  induction y generalizing s i d with
  | nil => rfl
  | cons a y ih => simp only [recordLoop]; split <;> simp [ih]

@[simp] theorem recordLoop_rendered (s : State) (i : Nat) (d : Option Nat) (y : List F64) :
    ((recordLoop s i d y).1).rendered = s.rendered := by
  induction y generalizing s i d with
  | nil => rfl
  | cons a y ih => simp only [recordLoop]; split <;> simp [ih]

@[simp] theorem recordLoop_schedule (s : State) (i : Nat) (d : Option Nat) (y : List F64) :
    ((recordLoop s i d y).1).schedule = s.schedule := by
  induction y generalizing s i d with
  | nil => rfl
  | cons a y ih => simp only [recordLoop]; split <;> simp [ih]

/-- `REC_LEN` grows by one and does not wrap below the capacity (R336). -/
theorem State.recordSample_recLen_toNat (s : State) (y : F64) (h : s.recLen.toNat < s.params.recCap) :
    (s.recordSample y).recLen.toNat = s.recLen.toNat + 1 := by
  have hc : s.params.recCap < 2097153 := s.params.recMax.isLt
  have h1 : (1 : BitVec 22).toNat = 1 := rfl
  simp only [State.recordSample_recLen]
  rw [BitVec.toNat_add, h1, Nat.mod_eq_of_lt (by omega)]

/-- `REC_LEN` grows by the block's length and saturates at `REC_MAX` (R336). -/
theorem recordLoop_recLen (s : State) (i : Nat) (d : Option Nat) (y : List F64)
    (h : s.recLen.toNat ≤ s.params.recCap) :
    (recordLoop s i d y).1.recLen.toNat = min (s.recLen.toNat + y.length) s.params.recCap := by
  induction y generalizing s i d with
  | nil => simp only [recordLoop, List.length_nil]; omega
  | cons a y ih =>
    simp only [recordLoop]
    split
    · have hr := State.recordSample_recLen_toNat s a (by assumption)
      have hp : (s.recordSample a).params = s.params := rfl
      rw [ih (s.recordSample a) (i + 1) d (by rw [hr, hp]; omega), hr, hp, List.length_cons]
      omega
    · rw [ih s (i + 1) _ h, List.length_cons]
      omega

/-- An index that is already known to be dropped stays the first one. -/
theorem recordLoop_dropped_some (s : State) (i k : Nat) (y : List F64) :
    (recordLoop s i (some k) y).2 = some k := by
  induction y generalizing s i with
  | nil => rfl
  | cons a y ih =>
    simp only [recordLoop]
    split
    · exact ih _ _
    · exact ih _ _

/-- The first dropped sample is the first one past the capacity (R336). -/
theorem recordLoop_dropped (s : State) (i : Nat) (y : List F64) (h : s.recLen.toNat ≤ s.params.recCap) :
    (recordLoop s i none y).2 =
      if s.recLen.toNat + y.length ≤ s.params.recCap then none
      else some (i + (s.params.recCap - s.recLen.toNat)) := by
  induction y generalizing s i with
  | nil => simp [recordLoop, h]
  | cons a y ih =>
    simp only [recordLoop]
    split
    · have hr := State.recordSample_recLen_toNat s a (by assumption)
      have hp : (s.recordSample a).params = s.params := rfl
      rw [ih (s.recordSample a) (i + 1) (by rw [hr, hp]; omega), hr, hp, List.length_cons]
      congr 1
      · simp only [eq_iff_iff]; omega
      · congr 1; omega
    · have : s.recLen.toNat = s.params.recCap := by omega
      have hd : (none : Option Nat).or (some i) = some i := rfl
      rw [hd, recordLoop_dropped_some, if_neg (by rw [List.length_cons]; omega)]
      simp [this]

/-- `RECORD` is its loop and, when a sample was dropped, one error (R336). -/
theorem State.record_eq (s : State) (y : List F64) :
    s.record y =
      match (recordLoop s 0 none y).2 with
      | none => (recordLoop s 0 none y).1
      | some i => (recordLoop s 0 none y).1.raise .recOverflow 0 (BitVec.ofNat 32 i) := by
  unfold State.record
  generalize recordLoop s 0 none y = r
  obtain ⟨t, d⟩ := r
  cases d <;> rfl

/-! `RECORD` changes `REC_BUF`, `REC_LEN` and the error record only. -/

@[simp] theorem State.record_params (s : State) (y : List F64) :
    (s.record y).params = s.params := by
  rw [State.record_eq]; split <;> simp

@[simp] theorem State.record_mode (s : State) (y : List F64) :
    (s.record y).mode = s.mode := by
  rw [State.record_eq]; split <;> simp

@[simp] theorem State.record_stopReq (s : State) (y : List F64) :
    (s.record y).stopReq = s.stopReq := by
  rw [State.record_eq]; split <;> simp

@[simp] theorem State.record_slot (s : State) (y : List F64) :
    (s.record y).slot = s.slot := by
  rw [State.record_eq]; split <;> simp

@[simp] theorem State.record_irqEn (s : State) (y : List F64) :
    (s.record y).irqEn = s.irqEn := by
  rw [State.record_eq]; split <;> simp

@[simp] theorem State.record_blockLen (s : State) (y : List F64) :
    (s.record y).blockLen = s.blockLen := by
  rw [State.record_eq]; split <;> simp

@[simp] theorem State.record_peak (s : State) (y : List F64) :
    (s.record y).peak = s.peak := by
  rw [State.record_eq]; split <;> simp

@[simp] theorem State.record_resultLen (s : State) (y : List F64) :
    (s.record y).resultLen = s.resultLen := by
  rw [State.record_eq]; split <;> simp

@[simp] theorem State.record_blkCnt (s : State) (y : List F64) :
    (s.record y).blkCnt = s.blkCnt := by
  rw [State.record_eq]; split <;> simp

@[simp] theorem State.record_sh (s : State) (y : List F64) :
    (s.record y).sh = s.sh := by
  rw [State.record_eq]; split <;> simp

@[simp] theorem State.record_act (s : State) (y : List F64) :
    (s.record y).act = s.act := by
  rw [State.record_eq]; split <;> simp

@[simp] theorem State.record_filt (s : State) (y : List F64) :
    (s.record y).filt = s.filt := by
  rw [State.record_eq]; split <;> simp

@[simp] theorem State.record_powerOns (s : State) (y : List F64) :
    (s.record y).powerOns = s.powerOns := by
  rw [State.record_eq]; split <;> simp

@[simp] theorem State.record_busRead (s : State) (y : List F64) :
    (s.record y).busRead = s.busRead := by
  rw [State.record_eq]; split <;> simp

@[simp] theorem State.record_offers (s : State) (y : List F64) :
    (s.record y).offers = s.offers := by
  rw [State.record_eq]; split <;> simp

@[simp] theorem State.record_consumed (s : State) (y : List F64) :
    (s.record y).consumed = s.consumed := by
  rw [State.record_eq]; split <;> simp

@[simp] theorem State.record_rendered (s : State) (y : List F64) :
    (s.record y).rendered = s.rendered := by
  rw [State.record_eq]; split <;> simp

@[simp] theorem State.record_schedule (s : State) (y : List F64) :
    (s.record y).schedule = s.schedule := by
  rw [State.record_eq]; split <;> simp

/-- What recording leaves in memory and in `REC_LEN` is the loop's. -/
theorem State.record_mem (s : State) (y : List F64) : (s.record y).mem = (recordLoop s 0 none y).1.mem := by
  unfold State.record
  generalize recordLoop s 0 none y = r
  obtain ⟨t, d⟩ := r
  cases d <;> rfl

theorem State.record_recLen (s : State) (y : List F64) : (s.record y).recLen = (recordLoop s 0 none y).1.recLen := by
  unfold State.record
  generalize recordLoop s 0 none y = r
  obtain ⟨t, d⟩ := r
  cases d <;> rfl

/-- The recording keeps memory canonical. -/
theorem recordLoop_mem_wf (s : State) (i : Nat) (d : Option Nat) (y : List F64) (h : s.mem.wf = true) :
    (recordLoop s i d y).1.mem.wf = true := by
  induction y generalizing s i d with
  | nil => exact h
  | cons a y ih =>
    simp only [recordLoop]
    split
    · exact ih _ _ _ (Memory.wf_writeWord _ _ _ h)
    · exact ih _ _ _ h

/-- A byte outside the recorded samples reads as before. -/
theorem recordLoop_memByte_of_ne (s : State) (i a : Nat) (d : Option Nat) (y : List F64)
    (hs : s.recLen.toNat ≤ s.params.recCap)
    (h : a < recBase + 8 * s.recLen.toNat ∨ recBase + 8 * s.params.recCap ≤ a) :
    (recordLoop s i d y).1.memByte a = s.memByte a := by
  induction y generalizing s i d with
  | nil => rfl
  | cons b y ih =>
    simp only [recordLoop]
    split
    · have hr := State.recordSample_recLen_toNat s b (by assumption)
      have hp : (s.recordSample b).params = s.params := rfl
      rw [ih (s.recordSample b) (i + 1) d (by rw [hr, hp]; omega) (by rw [hr, hp]; omega)]
      exact State.memByte_storeWord_of_ne s _ a b (by omega)
    · exact ih _ _ _ hs h

/-! Noting an offer's flags changes the error record only (R334). -/

@[simp] theorem State.noteOfferFlags_params (s : State) (o : Offer) :
    (s.noteOfferFlags o).params = s.params := by
  simp [State.noteOfferFlags]

@[simp] theorem State.noteOfferFlags_mode (s : State) (o : Offer) :
    (s.noteOfferFlags o).mode = s.mode := by
  simp [State.noteOfferFlags]

@[simp] theorem State.noteOfferFlags_stopReq (s : State) (o : Offer) :
    (s.noteOfferFlags o).stopReq = s.stopReq := by
  simp [State.noteOfferFlags]

@[simp] theorem State.noteOfferFlags_slot (s : State) (o : Offer) :
    (s.noteOfferFlags o).slot = s.slot := by
  simp [State.noteOfferFlags]

@[simp] theorem State.noteOfferFlags_irqEn (s : State) (o : Offer) :
    (s.noteOfferFlags o).irqEn = s.irqEn := by
  simp [State.noteOfferFlags]

@[simp] theorem State.noteOfferFlags_blockLen (s : State) (o : Offer) :
    (s.noteOfferFlags o).blockLen = s.blockLen := by
  simp [State.noteOfferFlags]

@[simp] theorem State.noteOfferFlags_peak (s : State) (o : Offer) :
    (s.noteOfferFlags o).peak = s.peak := by
  simp [State.noteOfferFlags]

@[simp] theorem State.noteOfferFlags_recLen (s : State) (o : Offer) :
    (s.noteOfferFlags o).recLen = s.recLen := by
  simp [State.noteOfferFlags]

@[simp] theorem State.noteOfferFlags_resultLen (s : State) (o : Offer) :
    (s.noteOfferFlags o).resultLen = s.resultLen := by
  simp [State.noteOfferFlags]

@[simp] theorem State.noteOfferFlags_blkCnt (s : State) (o : Offer) :
    (s.noteOfferFlags o).blkCnt = s.blkCnt := by
  simp [State.noteOfferFlags]

@[simp] theorem State.noteOfferFlags_sh (s : State) (o : Offer) :
    (s.noteOfferFlags o).sh = s.sh := by
  simp [State.noteOfferFlags]

@[simp] theorem State.noteOfferFlags_act (s : State) (o : Offer) :
    (s.noteOfferFlags o).act = s.act := by
  simp [State.noteOfferFlags]

@[simp] theorem State.noteOfferFlags_filt (s : State) (o : Offer) :
    (s.noteOfferFlags o).filt = s.filt := by
  simp [State.noteOfferFlags]

@[simp] theorem State.noteOfferFlags_mem (s : State) (o : Offer) :
    (s.noteOfferFlags o).mem = s.mem := by
  simp [State.noteOfferFlags]

@[simp] theorem State.noteOfferFlags_powerOns (s : State) (o : Offer) :
    (s.noteOfferFlags o).powerOns = s.powerOns := by
  simp [State.noteOfferFlags]

@[simp] theorem State.noteOfferFlags_busRead (s : State) (o : Offer) :
    (s.noteOfferFlags o).busRead = s.busRead := by
  simp [State.noteOfferFlags]

@[simp] theorem State.noteOfferFlags_offers (s : State) (o : Offer) :
    (s.noteOfferFlags o).offers = s.offers := by
  simp [State.noteOfferFlags]

@[simp] theorem State.noteOfferFlags_consumed (s : State) (o : Offer) :
    (s.noteOfferFlags o).consumed = s.consumed := by
  simp [State.noteOfferFlags]

@[simp] theorem State.noteOfferFlags_rendered (s : State) (o : Offer) :
    (s.noteOfferFlags o).rendered = s.rendered := by
  simp [State.noteOfferFlags]

@[simp] theorem State.noteOfferFlags_schedule (s : State) (o : Offer) :
    (s.noteOfferFlags o).schedule = s.schedule := by
  simp [State.noteOfferFlags]

/-! A block cycle changes the filter state, the recording, the rendered sequence, the counters, `PEAK`, the error
record and, on a stop, the mode; nothing else (R333). -/

@[simp] theorem State.blockCycle_params (s : State) (o : Offer) :
    (s.blockCycle o).params = s.params := by
  simp [State.blockCycle]

@[simp] theorem State.blockCycle_slot (s : State) (o : Offer) :
    (s.blockCycle o).slot = s.slot := by
  simp [State.blockCycle]

@[simp] theorem State.blockCycle_irqEn (s : State) (o : Offer) :
    (s.blockCycle o).irqEn = s.irqEn := by
  simp [State.blockCycle]

@[simp] theorem State.blockCycle_blockLen (s : State) (o : Offer) :
    (s.blockCycle o).blockLen = s.blockLen := by
  simp [State.blockCycle]

@[simp] theorem State.blockCycle_sh (s : State) (o : Offer) :
    (s.blockCycle o).sh = s.sh := by
  simp [State.blockCycle]

@[simp] theorem State.blockCycle_act (s : State) (o : Offer) :
    (s.blockCycle o).act = s.act := by
  simp [State.blockCycle]

@[simp] theorem State.blockCycle_powerOns (s : State) (o : Offer) :
    (s.blockCycle o).powerOns = s.powerOns := by
  simp [State.blockCycle]

@[simp] theorem State.blockCycle_busRead (s : State) (o : Offer) :
    (s.blockCycle o).busRead = s.busRead := by
  simp [State.blockCycle]

@[simp] theorem State.blockCycle_offers (s : State) (o : Offer) :
    (s.blockCycle o).offers = s.offers := by
  simp [State.blockCycle]

@[simp] theorem State.blockCycle_consumed (s : State) (o : Offer) :
    (s.blockCycle o).consumed = s.consumed := by
  simp [State.blockCycle]

@[simp] theorem State.blockCycle_schedule (s : State) (o : Offer) :
    (s.blockCycle o).schedule = s.schedule := by
  simp [State.blockCycle]

/-- The block a cycle renders and records: the offer's samples through the chain and the dynamics stage. -/
def State.cycleOutput (s : State) (o : Offer) : List F64 :=
  (chainBlock s.act s.filt (s.offerSamples o)).1.map fun a => (dynSample s.act a).1

@[simp] theorem State.cycleOutput_length (s : State) (o : Offer) :
    (s.cycleOutput o).length = (s.offerSamples o).length := by simp [State.cycleOutput]

/-- The samples of a well-formed offer are `BLOCK_LEN` many (R331, R333). -/
theorem State.offerSamples_length (s : State) (o : Offer) (h : o.wellFormed s.blockLen.toNat = true) :
    (s.offerSamples o).length = s.blockLen.toNat := by
  unfold State.offerSamples
  cases hn : o.novalid <;> simp_all [Offer.wellFormed]

/-- What the block of a cycle is, from the state before its flags are noted. -/
theorem State.cycle_runBlock (s : State) (o : Offer) :
    ((s.noteOfferFlags o).runBlock true (s.offerSamples o)).1 = s.cycleOutput o := by
  simp [State.runBlock_output, State.cycleOutput]

@[simp] theorem State.blockCycle_filt (s : State) (o : Offer) :
    (s.blockCycle o).filt = (chainBlock s.act s.filt (s.offerSamples o)).2 := by
  simp [State.blockCycle]

@[simp] theorem State.blockCycle_rendered (s : State) (o : Offer) :
    (s.blockCycle o).rendered = s.rendered ++ [s.cycleOutput o] := by
  simp [State.blockCycle, State.cycle_runBlock]

@[simp] theorem State.blockCycle_blkCnt (s : State) (o : Offer) : (s.blockCycle o).blkCnt = s.blkCnt + 1 := by
  simp [State.blockCycle]

@[simp] theorem State.blockCycle_stopReq (s : State) (o : Offer) : (s.blockCycle o).stopReq = false := by
  simp only [State.blockCycle, State.observeStop]
  split
  · rfl
  · simp_all

@[simp] theorem State.blockCycle_mode (s : State) (o : Offer) :
    (s.blockCycle o).mode = if s.stopReq then .idle else s.mode := by
  simp only [State.blockCycle, State.observeStop]
  split <;> simp_all

/-- The memory and `REC_LEN` after a cycle are those the recording leaves. -/
theorem State.blockCycle_mem (s : State) (o : Offer) :
    (s.blockCycle o).mem =
      (recordLoop (((s.noteOfferFlags o).runBlock true (s.offerSamples o)).2.render (s.cycleOutput o)) 0 none
        (s.cycleOutput o)).1.mem := by
  simp [State.blockCycle, State.record_mem, State.cycle_runBlock]

theorem State.blockCycle_recLen (s : State) (o : Offer) :
    (s.blockCycle o).recLen =
      (recordLoop (((s.noteOfferFlags o).runBlock true (s.offerSamples o)).2.render (s.cycleOutput o)) 0 none
        (s.cycleOutput o)).1.recLen := by
  simp [State.blockCycle, State.record_recLen, State.cycle_runBlock]

/-- `RESULT_LEN` after a cycle: `REC_LEN` when the stop was observed (R337). -/
theorem State.blockCycle_resultLen (s : State) (o : Offer) :
    (s.blockCycle o).resultLen = if s.stopReq then (s.blockCycle o).recLen else s.resultLen := by
  simp only [State.blockCycle, State.observeStop]
  split <;> simp_all

/-! ### The recording, byte by byte (R336) -/

/-- The loop of `RECORD` changes nothing but memory and `REC_LEN`. -/
theorem recordLoop_frame (s : State) (i : Nat) (d : Option Nat) (y : List F64) :
    (recordLoop s i d y).1 =
      { s with mem := (recordLoop s i d y).1.mem, recLen := (recordLoop s i d y).1.recLen } := by
  induction y generalizing s i d with
  | nil => rfl
  | cons a y ih =>
    simp only [recordLoop]
    split
    · rw [ih]
      rfl
    · exact ih _ _ _

/-- A byte below the first appended sample or beyond the last one reads as before. -/
theorem recordLoop_memByte (s : State) (i : Nat) (d : Option Nat) (y : List F64) (a : Nat)
    (h : s.recLen.toNat ≤ s.params.recCap)
    (ha : a < recBase + 8 * s.recLen.toNat ∨ recBase + 8 * (recordLoop s i d y).1.recLen.toNat ≤ a) :
    (recordLoop s i d y).1.memByte a = s.memByte a := by
  induction y generalizing s i d with
  | nil => rfl
  | cons b y ih =>
    simp only [recordLoop] at ha ⊢
    split
    · rename_i hlt
      rw [if_pos hlt] at ha
      have hr := State.recordSample_recLen_toNat s b hlt
      have hp : (s.recordSample b).params = s.params := rfl
      have hmono := recordLoop_recLen (s.recordSample b) (i + 1) d y (by rw [hr, hp]; omega)
      rw [hr, hp] at hmono
      have hstep : (s.recordSample b).memByte a = s.memByte a :=
        State.memByte_storeWord_of_ne s _ a b (by omega)
      rw [← hstep]
      exact ih _ _ _ (by rw [hr, hp]; omega) (by omega)
    · rename_i hlt
      rw [if_neg hlt] at ha
      exact ih _ _ _ h ha

/-- The samples that fit are appended in order. -/
theorem recordLoop_memWord (s : State) (i : Nat) (d : Option Nat) (y : List F64) (j : Nat)
    (h : s.recLen.toNat ≤ s.params.recCap) (hj : j < y.length) (hc : s.recLen.toNat + j < s.params.recCap) :
    (recordLoop s i d y).1.memWord (recBase + 8 * (s.recLen.toNat + j)) = y.getD j 0 := by
  induction y generalizing s i d j with
  | nil => simp at hj
  | cons b y ih =>
    simp only [recordLoop]
    rw [if_pos (by omega)]
    have hr := State.recordSample_recLen_toNat s b (by omega)
    have hp : (s.recordSample b).params = s.params := rfl
    cases j with
    | zero =>
      rw [State.memWord_eq_of_bytes (t := s.recordSample b) _ fun k hk =>
        recordLoop_memByte _ _ _ _ _ (by rw [hr, hp]; omega) (by left; omega)]
      exact State.memWord_storeWord s _ b
    | succ j =>
      have := ih (s.recordSample b) (i + 1) d j (by rw [hr, hp]; omega) (by simpa using hj) (by rw [hr, hp]; omega)
      rw [hr] at this
      rw [show s.recLen.toNat + (j + 1) = s.recLen.toNat + 1 + j by omega, this]
      rfl

end Sys2Proof.Machine
end

