-- ==== Sys2Proof/Laws/Errors.lean ====
section
/-!
SUPPORT. Which causes an operation can raise: how the sticky bits and `IRQ_STATUS` of one state follow from another's
(R373, R380).
-/

namespace Sys2Proof.Machine

/-- From `s` to `t` at most the causes in `P` were raised: the three event bits of `IRQ_STATUS` are as they were, no
`ERROR` bit fell, and a bit that rose is of a cause in `P`. -/
structure RaisesOnly (P : Cause → Prop) (s t : State) : Prop where
  events : ∀ k, k < 3 → t.irqStatus.getLsbD k = s.irqStatus.getLsbD k
  keeps : ∀ n, s.error.getLsbD n = true → t.error.getLsbD n = true
  line : s.irqStatus.getLsbD 3 = false → t.irqStatus.getLsbD 3 = true →
    ∃ c, P c ∧ t.error.getLsbD (c.code - 1) = true
  rises : ∀ c : Cause, s.error.getLsbD (c.code - 1) = false → t.error.getLsbD (c.code - 1) = true → P c

/-- An operation that leaves the error record and the interrupt bits alone raises nothing. -/
theorem RaisesOnly.of_eq {P : Cause → Prop} {s t : State} (hi : t.irqStatus = s.irqStatus) (he : t.error = s.error) :
    RaisesOnly P s t where
  events _ _ := by rw [hi]
  keeps _ h := by rw [he]; exact h
  line h h' := by
    rw [hi, h] at h'
    cases h'
  rises _ h h' := by
    rw [he, h] at h'
    cases h'

/-- One operation after another. -/
theorem RaisesOnly.trans {P : Cause → Prop} {s t u : State} (h : RaisesOnly P s t) (h' : RaisesOnly P t u) :
    RaisesOnly P s u where
  events k hk := (h'.events k hk).trans (h.events k hk)
  keeps n hn := h'.keeps n (h.keeps n hn)
  line hs hu := by
    cases ht : t.irqStatus.getLsbD 3
    · exact h'.line ht hu
    · obtain ⟨c, hc, hb⟩ := h.line hs ht
      exact ⟨c, hc, h'.keeps _ hb⟩
  rises c hs hu := by
    cases ht : t.error.getLsbD (c.code - 1)
    · exact h'.rises c ht hu
    · exact h.rises c hs ht

/-- Fewer causes are also more causes. -/
theorem RaisesOnly.mono {P Q : Cause → Prop} {s t : State} (h : RaisesOnly P s t) (hPQ : ∀ c, P c → Q c) :
    RaisesOnly Q s t where
  events := h.events
  keeps := h.keeps
  line hs ht := let ⟨c, hc, hb⟩ := h.line hs ht; ⟨c, hPQ c hc, hb⟩
  rises c hs ht := hPQ c (h.rises c hs ht)

/-- The bit of a cause in another cause's mask (R39): the codes are distinct (R371). -/
theorem Cause.mask_getLsbD (c d : Cause) : c.mask.getLsbD (d.code - 1) = decide (d = c) := by
  cases c <;> cases d <;> decide

/-- Raising a cause raises that cause (R373). -/
theorem RaisesOnly.raise {P : Cause → Prop} (s : State) (c : Cause) (loc : BitVec 8) (info : BitVec 32) (h : P c) :
    RaisesOnly P s (s.raise c loc info) where
  events k hk := by
    have hm : IrqBit.err.mask.getLsbD k = false := by
      have : ∀ k, k < 3 → IrqBit.err.mask.getLsbD k = false := by decide
      exact this k hk
    simp [hm]
  keeps n hn := by simp [hn]
  line _ _ := ⟨c, h, by simp [Cause.mask_getLsbD]⟩
  rises d hs ht := by
    rw [State.raise_error, BitVec.getLsbD_or, hs, Cause.mask_getLsbD] at ht
    have hd : d = c := by simpa using ht
    exact hd ▸ h

/-- The same under a condition. -/
theorem RaisesOnly.raiseIf {P : Cause → Prop} (s : State) (p : Bool) (c : Cause) (info : BitVec 32)
    (h : p = true → P c) : RaisesOnly P s (s.raiseIf p c info) := by
  unfold State.raiseIf
  split
  · exact .raise s c 0 info (h ‹_›)
  · exact .of_eq rfl rfl

/-- `FINISH_SAMPLE` raises cause 12, with the dynamics stage only, and cause 13 (R289). -/
theorem RaisesOnly.finishSample {P : Cause → Prop} (s : State) (dyn : Bool) (i : Nat) (y : F64)
    (h12 : dyn = true → P .dynRange) (h13 : P .nonFinite) : RaisesOnly P s (finishSample s dyn i y).2 := by
  have key : ∀ p q z, (p = true → P .dynRange) → RaisesOnly P s
      (((s.raiseIf p .dynRange (BitVec.ofNat 32 i)).raiseIf q .nonFinite (BitVec.ofNat 32 i)).notePeak z) :=
    fun p q z hp => ((RaisesOnly.raiseIf s p _ _ hp).trans (.raiseIf _ q _ _ fun _ => h13)).trans
      (.of_eq (State.notePeak_irqStatus _ _) (State.notePeak_error _ _))
  exact key _ _ _ fun hp => h12 (by simp at hp; exact hp.1)

/-- A block's samples finished raise the same (R289). -/
theorem RaisesOnly.finishBlock {P : Cause → Prop} (s : State) (dyn : Bool) (i : Nat) (y : List F64)
    (h12 : dyn = true → P .dynRange) (h13 : P .nonFinite) : RaisesOnly P s (finishBlock s dyn i y).2 := by
  induction y generalizing s i with
  | nil => exact .of_eq rfl rfl
  | cons a y ih => exact (RaisesOnly.finishSample s dyn i a h12 h13).trans (ih _ _)

/-- A block through the chain raises the same (R181, R333). -/
theorem RaisesOnly.runBlock {P : Cause → Prop} (s : State) (dyn : Bool) (x : List F64)
    (h12 : dyn = true → P .dynRange) (h13 : P .nonFinite) : RaisesOnly P s (s.runBlock dyn x).2 :=
  RaisesOnly.trans (t := { s with filt := (chainBlock s.act s.filt x).2 }) (.of_eq rfl rfl)
    (.finishBlock _ dyn 0 _ h12 h13)

/-- `RECORD` raises cause 14, and only when the block does not fit (R336). -/
theorem RaisesOnly.record {P : Cause → Prop} (s : State) (y : List F64)
    (h14 : s.params.recCap < s.recLen.toNat + y.length → P .recOverflow) : RaisesOnly P s (s.record y) := by
  have hl : RaisesOnly P s (recordLoop s 0 none y).1 := .of_eq (by simp) (by simp)
  rw [State.record_eq]
  split
  · exact hl
  · rename_i i hi
    refine hl.trans (.raise _ _ _ _ (h14 ?_))
    by_contra hc
    rw [recordLoop_dropped s 0 y (by omega), if_pos (by omega)] at hi
    cases hi

/-- An offer's flags raise causes 9, 10 and 11 (R334). -/
theorem RaisesOnly.noteOfferFlags {P : Cause → Prop} (s : State) (o : Offer) (h9 : o.ovr = true → P .xportOverrun)
    (h10 : o.udr = true → P .xportUnderrun) (h11 : o.novalid = true → P .xportNoData) :
    RaisesOnly P s (s.noteOfferFlags o) :=
  ((RaisesOnly.raiseIf s _ _ _ h9).trans (.raiseIf _ _ _ _ h10)).trans (.raiseIf _ _ _ _ h11)

/-- A block cycle raises causes 9 to 14, and then sets `BLOCK_DONE` and, when it observes the stop, `STOP_DONE`
(R333, R337). -/
theorem State.blockCycle_raises {P : Cause → Prop} (s : State) (o : Offer) (h9 : o.ovr = true → P .xportOverrun)
    (h10 : o.udr = true → P .xportUnderrun) (h11 : o.novalid = true → P .xportNoData) (h12 : P .dynRange)
    (h13 : P .nonFinite)
    (h14 : s.params.recCap < s.recLen.toNat + (s.offerSamples o).length → P .recOverflow) :
    ∃ w, RaisesOnly P s w ∧ (s.blockCycle o).error = w.error ∧
      (s.blockCycle o).irqStatus = if s.stopReq then w.irqStatus ||| 0x2#4 ||| 0x4#4 else w.irqStatus ||| 0x2#4 := by
  have hr : RaisesOnly P s ((s.noteOfferFlags o).runBlock true (s.offerSamples o)).2 :=
    (RaisesOnly.noteOfferFlags s o h9 h10 h11).trans (.runBlock _ true _ (fun _ => h12) h13)
  generalize hu : (s.noteOfferFlags o).runBlock true (s.offerSamples o) = r at hr
  have hlen : r.1.length = (s.offerSamples o).length := by rw [← hu, State.runBlock_length]
  have hp : r.2.params = s.params := by simp [← hu]
  have hn : r.2.recLen = s.recLen := by simp [← hu]
  have hs : r.2.stopReq = s.stopReq := by simp [← hu]
  have hrec : RaisesOnly P r.2 ((r.2.render r.1).record r.1) :=
    RaisesOnly.trans (t := r.2.render r.1) (.of_eq rfl rfl)
      (.record _ _ fun hc => h14 (by rwa [← hlen, ← hp, ← hn]))
  refine ⟨(r.2.render r.1).record r.1, hr.trans hrec, ?_, ?_⟩
  · simp only [State.blockCycle, hu, State.observeStop]
    split <;> rfl
  · simp only [State.blockCycle, hu, State.observeStop]
    have hs' : (State.setIrq { (r.2.render r.1).record r.1 with
        blkCnt := ((r.2.render r.1).record r.1).blkCnt + 1 } .blockDone).stopReq = s.stopReq := by
      rw [← hs]
      exact State.record_stopReq _ _
    simp only [hs']
    split <;> rfl

end Sys2Proof.Machine
end

