-- ==== Sys2Proof/Laws/Float.lean ====
section
/-!
SUPPORT. The laws of the binary64 arithmetic: the fields of a pattern, what `fabs` and the NaN results are, and that
rounding an exactly representable value gives it back.
-/

namespace Sys2Proof.Machine

/-! ### The fields of a pattern -/

theorem fMag_lt (x : F64) : fMag x < 2 ^ 63 := Nat.mod_lt _ (by norm_num)

theorem fExp_lt (x : F64) : fExp x < 2048 := Nat.mod_lt _ (by norm_num)

theorem fFrac_lt (x : F64) : fFrac x < 2 ^ 52 := Nat.mod_lt _ (by norm_num)

/-- The magnitude is the exponent field followed by the fraction. -/
theorem fMag_eq (x : F64) : fMag x = fExp x * 2 ^ 52 + fFrac x := by
  unfold fMag fExp fFrac
  omega

/-- The sign bit read from the pattern's number. -/
theorem fSign_eq (x : F64) : fSign x = decide (2 ^ 63 ≤ x.toNat) := by
  have := x.isLt
  unfold fSign
  rw [BitVec.getLsbD, Nat.testBit_eq_decide_div_mod_eq]
  congr 1
  simp only [eq_iff_iff]
  omega

/-- A pattern is its sign and its magnitude. -/
theorem toNat_eq (x : F64) : x.toNat = (if fSign x then 2 ^ 63 else 0) + fMag x := by
  have := x.isLt
  rw [fSign_eq]
  unfold fMag
  by_cases h : 2 ^ 63 ≤ x.toNat <;> simp only [h, decide_true, decide_false, if_true] <;> simp <;> omega

@[simp] theorem packSign_self (x : F64) : packSign (fSign x) (fMag x) = x := by
  apply BitVec.eq_of_toNat_eq
  unfold packSign
  rw [BitVec.toNat_ofNat, ← toNat_eq, Nat.mod_eq_of_lt x.isLt]

/-- The number of a packed pattern. -/
theorem toNat_packSign (s : Bool) (n : Nat) (h : n < 2 ^ 63) :
    (packSign s n).toNat = (if s then 2 ^ 63 else 0) + n := by
  unfold packSign
  rw [BitVec.toNat_ofNat, Nat.mod_eq_of_lt]
  cases s <;> simp <;> omega

theorem fMag_packSign (s : Bool) (n : Nat) (h : n < 2 ^ 63) : fMag (packSign s n) = n := by
  unfold fMag
  rw [toNat_packSign s n h]
  cases s
  · simp
    omega
  · simp
    omega

theorem fSign_packSign (s : Bool) (n : Nat) (h : n < 2 ^ 63) : fSign (packSign s n) = s := by
  rw [fSign_eq, toNat_packSign s n h]
  cases s <;> simp
  omega

/-- The exponent field in terms of the magnitude. -/
theorem fExp_eq_fMag (x : F64) : fExp x = fMag x / 2 ^ 52 := by
  unfold fExp fMag
  omega

/-- The fraction in terms of the magnitude. -/
theorem fFrac_eq_fMag (x : F64) : fFrac x = fMag x % 2 ^ 52 := by
  unfold fFrac fMag
  omega

/-- Finiteness, being a NaN or an infinity are properties of the magnitude. -/
theorem isFinite_iff (x : F64) : isFinite x = true ↔ fMag x < 2047 * 2 ^ 52 := by
  have := fMag_lt x
  have h : isFinite x = true ↔ fExp x ≠ 2047 := by simp [isFinite]
  rw [h, fExp_eq_fMag]
  omega

theorem isNaN_iff (x : F64) : isNaN x = true ↔ 2047 * 2 ^ 52 < fMag x := by
  have := fMag_lt x
  have h : isNaN x = true ↔ fExp x = 2047 ∧ fFrac x ≠ 0 := by simp [isNaN]
  rw [h, fExp_eq_fMag, fFrac_eq_fMag]
  omega

theorem isInf_iff (x : F64) : isInf x = true ↔ fMag x = 2047 * 2 ^ 52 := by
  have := fMag_lt x
  have h : isInf x = true ↔ fExp x = 2047 ∧ fFrac x = 0 := by simp [isInf]
  rw [h, fExp_eq_fMag, fFrac_eq_fMag]
  omega

theorem isZero_iff (x : F64) : isZero x = true ↔ fMag x = 0 := by simp [isZero]

/-- A finite number is no NaN and no infinity. -/
theorem isNaN_of_isFinite {x : F64} (h : isFinite x = true) : isNaN x = false := by
  have := (isFinite_iff x).mp h
  cases hn : isNaN x with
  | false => rfl
  | true => have := (isNaN_iff x).mp hn; omega

theorem isInf_of_isFinite {x : F64} (h : isFinite x = true) : isInf x = false := by
  have := (isFinite_iff x).mp h
  cases hn : isInf x with
  | false => rfl
  | true => have := (isInf_iff x).mp hn; omega

/-! ### `fabs` and the NaN results -/

@[simp] theorem fMag_fabs (x : F64) : fMag (fabs x) = fMag x := by
  have := fMag_lt x
  have h : fabs x = packSign false (fMag x) := by simp [fabs, packSign]
  rw [h, fMag_packSign _ _ this]

@[simp] theorem fSign_fabs (x : F64) : fSign (fabs x) = false := by
  have := fMag_lt x
  have h : fabs x = packSign false (fMag x) := by simp [fabs, packSign]
  rw [h, fSign_packSign _ _ this]

@[simp] theorem isFinite_fabs (x : F64) : isFinite (fabs x) = isFinite x := by
  rw [Bool.eq_iff_iff, isFinite_iff, isFinite_iff, fMag_fabs]

@[simp] theorem isNaN_fabs (x : F64) : isNaN (fabs x) = isNaN x := by
  rw [Bool.eq_iff_iff, isNaN_iff, isNaN_iff, fMag_fabs]

/-- A NaN result is a NaN whatever the free bits are. -/
@[simp] theorem isNaN_fNaN (op : FloatOp) (a b : F64) : isNaN (fNaN op a b) = true := by
  rw [isNaN_iff]
  unfold fNaN fMag
  have h1 := ((Config.nanBits op a b).extractLsb' 51 1).isLt
  have h2 := ((Config.nanBits op a b).extractLsb' 0 51).isLt
  generalize (Config.nanBits op a b).extractLsb' 51 1 = u at *
  generalize (Config.nanBits op a b).extractLsb' 0 51 = v at *
  have : (u ++ 0xFFF#12 ++ v).toNat = u.toNat * 2 ^ 63 + 4095 * 2 ^ 51 + v.toNat := by
    rw [BitVec.toNat_append, BitVec.toNat_append, ← Nat.shiftLeft_add_eq_or_of_lt h2,
      ← Nat.shiftLeft_add_eq_or_of_lt (by decide)]
    simp only [Nat.shiftLeft_eq]
    have : (0xFFF#12).toNat = 4095 := rfl
    rw [this]
    ring
  rw [this]
  omega

/-- A NaN result is not finite. -/
@[simp] theorem isFinite_fNaN (op : FloatOp) (a b : F64) : isFinite (fNaN op a b) = false := by
  cases h : isFinite (fNaN op a b) with
  | false => rfl
  | true => exact absurd (isNaN_of_isFinite h) (by simp)

/-! ### Rounding an exact value -/

theorem roundShift_exact (m k : Nat) : roundShift (m * 2 ^ k) k = m := by
  have hp : 0 < 2 ^ k := Nat.two_pow_pos k
  unfold roundShift
  rw [Nat.mul_mod_left, Nat.mul_div_cancel _ hp, if_neg (by omega)]

/-- A power of two adds to the binary logarithm. -/
theorem log2_mul_two_pow (m k : Nat) (h : m ≠ 0) : (m * 2 ^ k).log2 = m.log2 + k := by
  have hp : 0 < 2 ^ k := Nat.two_pow_pos k
  obtain ⟨h1, h2⟩ := (Nat.log2_eq_iff h).mp rfl
  rw [Nat.log2_eq_iff (Nat.mul_ne_zero h (by omega))]
  refine ⟨?_, ?_⟩
  · rw [Nat.pow_add]
    exact Nat.mul_le_mul_right _ h1
  · rw [show m.log2 + k + 1 = (m.log2 + 1) + k by omega, Nat.pow_add]
    exact Nat.mul_lt_mul_of_pos_right h2 hp

/-- The last place of a finite non-zero number, scaled by any power of two, is its own. -/
theorem lastPlace_exact (x : F64) (k e : Nat) (hz : isZero x = false) (he : e + k = fScale x + 3021) :
    lastPlace (fSig x * 2 ^ k) e = fScale x + 3021 := by
  have hm := fMag_eq x
  have hne : fMag x ≠ 0 := fun h => by simp [(isZero_iff x).mpr h] at hz
  have hf := fFrac_lt x
  have hs : fSig x ≠ 0 := by
    unfold fSig
    split <;> omega
  have hlog : (fSig x * 2 ^ k).log2 = (fSig x).log2 + k := by
    exact log2_mul_two_pow _ k hs
  unfold lastPlace
  rw [hlog]
  by_cases h0 : fExp x = 0
  · have hsc : fScale x = 1 := by simp [fScale, h0]
    have : (fSig x).log2 < 52 := by
      rw [Nat.log2_lt hs]
      simpa [fSig, h0] using hf
    omega
  · have : (fSig x).log2 = 52 := by
      rw [Nat.log2_eq_iff hs]
      simp only [fSig, h0, if_false]
      omega
    have hsc : 1 ≤ fScale x := by simp [fScale]
    omega

/-- Rounding a finite number's own significand, scaled by any power of two, gives the number back. -/
theorem roundPack_exact (x : F64) (k e : Nat) (hx : isFinite x = true) (hz : isZero x = false)
    (he : e + k = fScale x + 3021) : roundPack (fSign x) (fSig x * 2 ^ k) e = x := by
  have hm := fMag_eq x
  have hne : fMag x ≠ 0 := fun h => by simp [(isZero_iff x).mpr h] at hz
  have hs : fSig x ≠ 0 := by
    unfold fSig
    split <;> omega
  have hfin := (isFinite_iff x).mp hx
  have hmul : fSig x * 2 ^ k ≠ 0 := Nat.mul_ne_zero hs (by positivity)
  have hmag : roundMag (fSig x * 2 ^ k) e = fMag x := by
    have hq : (if lastPlace (fSig x * 2 ^ k) e ≤ e then fSig x * 2 ^ k * 2 ^ (e - lastPlace (fSig x * 2 ^ k) e)
        else roundShift (fSig x * 2 ^ k) (lastPlace (fSig x * 2 ^ k) e - e)) = fSig x := by
      rw [lastPlace_exact x k e hz he]
      split
      · have : k = 0 := by omega
        subst this
        rw [show e - (fScale x + 3021) = 0 by omega]
        simp
      · rw [show fScale x + 3021 - e = k by omega, roundShift_exact]
    simp only [roundMag]
    rw [hq, lastPlace_exact x k e hz he]
    have : (fScale x + 3021 - 3022) * 2 ^ 52 + fSig x = fMag x := by
      rw [hm]
      unfold fScale fSig
      by_cases h0 : fExp x = 0
      · simp [h0]
      · simp only [h0, if_false]
        omega
    rw [this]
    omega
  unfold roundPack
  rw [if_neg hmul, hmag, packSign_self]

/-- Rounding a quotient by a power of two keeps the order. -/
theorem roundShift_mono (a b k : Nat) (h : a ≤ b) : roundShift a k ≤ roundShift b k := by
  have hk : 0 < 2 ^ k := Nat.two_pow_pos k
  have e1 := Nat.div_add_mod a (2 ^ k)
  have e2 := Nat.div_add_mod b (2 ^ k)
  have l1 := Nat.mod_lt a hk
  have l2 := Nat.mod_lt b hk
  have hd : a / 2 ^ k ≤ b / 2 ^ k := Nat.div_le_div_right h
  unfold roundShift
  rcases Nat.lt_or_ge (a / 2 ^ k) (b / 2 ^ k) with hlt | hge
  · split <;> split <;> omega
  · have heq : a / 2 ^ k = b / 2 ^ k := by omega
    rw [heq] at e1 ⊢
    have : a % 2 ^ k ≤ b % 2 ^ k := by omega
    split <;> split <;> omega

/-- An exact value no larger in magnitude than a finite number rounds to a finite number. -/
theorem isFinite_roundPack (x : F64) (s : Bool) (m k e : Nat) (hx : isFinite x = true) (hm : m ≤ fSig x * 2 ^ k)
    (he : e + k = fScale x + 3021) : isFinite (roundPack s m e) = true := by
  unfold roundPack
  split
  · cases s <;> decide
  rename_i hm0
  have hs : fSig x < 2 ^ 53 := by
    have := fFrac_lt x
    unfold fSig
    split <;> omega
  have hsc : 1 ≤ fScale x ∧ fScale x ≤ 2046 := by
    have h1 := (isFinite_iff x).mp hx
    have h2 := fMag_eq x
    unfold fScale
    omega
  have hmag : roundMag m e < 2047 * 2 ^ 52 := by
    have hlog : m.log2 < 53 + k := by
      rw [Nat.log2_lt hm0, Nat.pow_add]
      exact hm.trans_lt (Nat.mul_lt_mul_of_pos_right hs (Nat.two_pow_pos k))
    have hlog' : m < 2 ^ (m.log2 + 1) := Nat.lt_log2_self
    have hT : lastPlace m e ≤ fScale x + 3021 := by unfold lastPlace; omega
    have hlow : e + (m.log2 + 1) - 53 ≤ lastPlace m e := by unfold lastPlace; omega
    have hmin : 3022 ≤ lastPlace m e := by unfold lastPlace; omega
    unfold roundMag
    generalize lastPlace m e = t at *
    simp only []
    have hq : (if t ≤ e then m * 2 ^ (e - t) else roundShift m (t - e)) ≤ 2 ^ 53 := by
      split
      · calc m * 2 ^ (e - t) ≤ 2 ^ (m.log2 + 1) * 2 ^ (e - t) := Nat.mul_le_mul_right _ hlog'.le
          _ = 2 ^ (m.log2 + 1 + (e - t)) := by rw [← Nat.pow_add]
          _ ≤ 2 ^ 53 := Nat.pow_le_pow_right (by norm_num) (by omega)
      · have h1 : m ≤ 2 ^ 53 * 2 ^ (t - e) := by
          rw [← Nat.pow_add]
          exact hlog'.le.trans (Nat.pow_le_pow_right (by norm_num) (by omega))
        exact (roundShift_mono _ _ _ h1).trans_eq (roundShift_exact _ _)
    have htop : t = fScale x + 3021 → (if t ≤ e then m * 2 ^ (e - t) else roundShift m (t - e)) ≤ fSig x := by
      intro ht
      split
      · have hk : k = 0 := by omega
        have h0 : e - t = 0 := by omega
        rw [h0]
        simpa [hk] using hm
      · rw [show t - e = k by omega]
        exact (roundShift_mono _ _ _ hm).trans_eq (roundShift_exact _ _)
    generalize (if t ≤ e then m * 2 ^ (e - t) else roundShift m (t - e)) = q at *
    have h53 : (2 : Nat) ^ 53 = 2 * 2 ^ 52 := by rw [Nat.pow_succ]; omega
    have hpos : (0 : Nat) < 2 ^ 52 := Nat.two_pow_pos 52
    rw [h53] at hq hs
    rcases Nat.lt_or_ge t (fScale x + 3021) with hlt | hge
    · have h1 : (t - 3022) * 2 ^ 52 ≤ 2044 * 2 ^ 52 := Nat.mul_le_mul_right _ (by omega)
      clear hlog hlog' hm htop
      generalize (2 : Nat) ^ 52 = P at *
      omega
    · have h1 : (t - 3022) * 2 ^ 52 ≤ 2045 * 2 ^ 52 := Nat.mul_le_mul_right _ (by omega)
      have h2 := htop (by omega)
      clear hlog hlog' hm htop
      generalize (2 : Nat) ^ 52 = P at *
      omega
  rw [isFinite_iff, fMag_packSign s (roundMag m e) (by omega)]
  exact hmag

/-! ### Operations that give an operand back -/

theorem isFinite_of_isZero {z : F64} (h : isZero z = true) : isFinite z = true := by
  rw [isZero_iff] at h
  rw [isFinite_iff]
  omega

/-- A zero is the zero of its sign. -/
theorem eq_fZero_of_isZero {z : F64} (h : isZero z = true) : z = fZero (fSign z) := by
  have := packSign_self z
  rw [(isZero_iff z).mp h] at this
  exact this.symm

/-- One times a finite number is the number. -/
theorem fmul_one_left {x : F64} (hx : isFinite x = true) : fmul f64One x = x := by
  have h1 : isNaN f64One = false := by decide
  have h2 : isInf f64One = false := by decide
  have h3 : fSign f64One = false := by decide
  have h4 : fSig f64One = 2 ^ 52 := by decide
  have h5 : fScale f64One = 1023 := by decide
  have hs : (false != fSign x) = fSign x := by cases fSign x <;> rfl
  unfold fmul
  rw [h1, h2, isNaN_of_isFinite hx, isInf_of_isFinite hx, h3, h4, h5, hs]
  simp only [Bool.or_self, Bool.false_eq_true, if_false]
  cases hz : isZero x with
  | true =>
    have h0 : fSig x = 0 := by
      have := fMag_eq x
      have := (isZero_iff x).mp hz
      unfold fSig
      split <;> omega
    rw [h0]
    simpa [roundPack] using (eq_fZero_of_isZero hz).symm
  | false =>
    rw [Nat.mul_comm]
    exact roundPack_exact x 52 _ hx hz (by omega)

/-- A finite number divided by one is the number. -/
theorem fdiv_one_right {x : F64} (hx : isFinite x = true) : fdiv x f64One = x := by
  have h1 : isNaN f64One = false := by decide
  have h2 : isInf f64One = false := by decide
  have h3 : fSign f64One = false := by decide
  have h4 : fSig f64One = 2 ^ 52 := by decide
  have h5 : fScale f64One = 1023 := by decide
  have h6 : isZero f64One = false := by decide
  have hs : (fSign x != false) = fSign x := by cases fSign x <;> rfl
  unfold fdiv
  rw [h1, h2, isNaN_of_isFinite hx, isInf_of_isFinite hx, h3, h6, hs]
  simp only [Bool.or_self, Bool.false_eq_true, if_false]
  cases hz : isZero x with
  | true => simpa using (eq_fZero_of_isZero hz).symm
  | false =>
    simp only [Bool.false_eq_true, if_false]
    unfold divFinite
    rw [h3, h4, h5, hs]
    have e1 : fSig x * 2 ^ 115 = fSig x * 2 ^ 63 * 2 ^ 52 := by ring
    simp only [e1, Nat.mul_mod_left, if_true]
    rw [Nat.mul_div_cancel _ (by norm_num), show 2 * (fSig x * 2 ^ 63) + 0 = fSig x * 2 ^ 64 by ring]
    exact roundPack_exact x 64 _ hx hz (by omega)

/-- Adding a zero to a finite number other than `-0.0` gives the number. -/
theorem fadd_zero_right {x z : F64} (hx : isFinite x = true) (hn : x ≠ 0x8000000000000000#64)
    (hz : isZero z = true) : fadd x z = x := by
  have hzf := isFinite_of_isZero hz
  unfold fadd addWith
  rw [isNaN_of_isFinite hx, isInf_of_isFinite hx, isNaN_of_isFinite hzf, isInf_of_isFinite hzf, hz]
  simp only [Bool.or_self, Bool.false_eq_true, if_false, Bool.and_true]
  cases h : isZero x with
  | true =>
    have he := eq_fZero_of_isZero h
    cases hs : fSign x with
    | false => simpa [hs] using he.symm
    | true => exact absurd (he.trans (by rw [hs]; rfl)) hn
  | false => simp

/-- The sum of two zeros is a zero. -/
theorem isZero_fadd {a b : F64} (ha : isZero a = true) (hb : isZero b = true) : isZero (fadd a b) = true := by
  have haf := isFinite_of_isZero ha
  have hbf := isFinite_of_isZero hb
  unfold fadd addWith
  rw [isNaN_of_isFinite haf, isInf_of_isFinite haf, isNaN_of_isFinite hbf, isInf_of_isFinite hbf, ha, hb]
  simp only [Bool.or_self, Bool.false_eq_true, if_false, Bool.and_self, if_true]
  cases (fSign a && fSign b) <;> decide

@[simp] theorem fSign_fneg (x : F64) : fSign (fneg x) = !fSign x := fSign_packSign _ _ (fMag_lt x)

@[simp] theorem fMag_fneg (x : F64) : fMag (fneg x) = fMag x := fMag_packSign _ _ (fMag_lt x)

/-- A finite number minus itself is `+0.0`. -/
theorem fsub_self_eq {p : F64} (h : isFinite p = true) : fsub p p = f64Zero := by
  have hf : isFinite (fneg p) = true := by rw [isFinite_iff, fMag_fneg]; exact (isFinite_iff p).mp h
  have hz : isZero (fneg p) = isZero p := by rw [Bool.eq_iff_iff, isZero_iff, isZero_iff, fMag_fneg]
  have e1 : fExp (fneg p) = fExp p := by rw [fExp_eq_fMag, fExp_eq_fMag, fMag_fneg]
  have e2 : fFrac (fneg p) = fFrac p := by rw [fFrac_eq_fMag, fFrac_eq_fMag, fMag_fneg]
  have e3 : fSig (fneg p) = fSig p := by simp only [fSig, e1, e2]
  have e4 : fScale (fneg p) = fScale p := by simp only [fScale, e1]
  unfold fsub addWith
  rw [isNaN_of_isFinite h, isInf_of_isFinite h, isNaN_of_isFinite hf, isInf_of_isFinite hf, hz, fSign_fneg]
  simp only [Bool.or_self, Bool.false_eq_true, if_false, Bool.and_self, Bool.and_not_self]
  cases hz0 : isZero p with
  | true => rfl
  | false =>
    simp only [Bool.false_eq_true, if_false]
    unfold addFinite
    simp only [e3, e4, fSign_fneg]
    rw [if_neg (by cases fSign p <;> simp), if_neg (by omega), if_neg (by omega)]
    rfl

/-- Zero times a finite number is a zero. -/
theorem isZero_fmul_zero {z : F64} (h : isFinite z = true) : isZero (fmul f64Zero z) = true := by
  have h1 : isNaN f64Zero = false := by decide
  have h2 : isInf f64Zero = false := by decide
  have h3 : fSig f64Zero = 0 := by decide
  have h4 : fSign f64Zero = false := by decide
  unfold fmul
  rw [isNaN_of_isFinite h, isInf_of_isFinite h, h1, h2, h3, h4]
  simp only [Bool.or_self, Bool.false_eq_true, if_false, roundPack, Nat.zero_mul, if_true]
  cases fSign z <;> decide

/-! ### The comparisons -/

/-- `fgt` compares two numbers by their keys (R14). -/
theorem fgt_iff (a b : F64) : fgt a b = true ↔ isNaN a = false ∧ isNaN b = false ∧ fKey b < fKey a := by
  simp only [fgt, flt, Bool.and_eq_true, Bool.not_eq_true', decide_eq_true_eq]
  tauto

/-- The key of a magnitude is its pattern. -/
@[simp] theorem fKey_fabs (a : F64) : fKey (fabs a) = fMag a := by simp [fKey]

end Sys2Proof.Machine
end

