-- ==== Sys2Proof/Laws/PerInstr.lean ====
section
/-!
SUPPORT. Per-instruction laws: every encoding matches its row of the opcode table (R144), one lemma per
constructor.
-/

namespace Sys2Proof.Laws.OpcodeRow

/-- The match and mask of an instruction's row of R144, over the command word or the BUS header. -/
def row : Instr → Nat × Nat
  | .nop => (0x0000000000000000, 0xFFFFFFFFFFFFFFFF)
  | .reset => (0x0000000000000001, 0xFFFFFFFFFFFFFFFF)
  | .commit => (0x0000000000000002, 0xFFFFFFFFFFFFFFFF)
  | .start => (0x0000000000000003, 0xFFFFFFFFFFFFFFFF)
  | .stop => (0x0000000000000004, 0xFFFFFFFFFFFFFFFF)
  | .flush _ => (0x0000000000000005, 0xFFFFFFFFFFFFE0FF)
  | .process _ _ => (0x0000000000000006, 0xFFFFFFFF0000FEFF)
  | .clrpeak => (0x0000000000000007, 0xFFFFFFFFFFFFFFFF)
  | .rd64 _ => (0x000000000, 0x100000000)
  | .wr64 _ _ => (0x100000000, 0x100000000)

/-- The word of an encoding as a number, the bits numbered as the opcode table numbers them. -/
def wordOf : Encoded → Nat
  | .cmd v => v.toNat
  | .bus header _ => header.toNat

/-- The encoding matches its row: `(word AND mask) = match`. -/
def Statement (i : Instr) : Prop := wordOf (encode i) &&& (row i).2 = (row i).1

theorem nop : Statement .nop := rfl

theorem reset : Statement .reset := rfl

theorem commit : Statement .commit := rfl

theorem start : Statement .start := rfl

theorem stop : Statement .stop := rfl

theorem clrpeak : Statement .clrpeak := rfl

theorem flush (mask : BitVec 5) : Statement (.flush mask) := by
  unfold Statement
  revert mask
  decide

theorem process (n : BitVec 16) (dyn : Bool) : Statement (.process n dyn) := by
  have h : encodeCmd (.process n dyn) &&& 0xFFFFFFFF0000FEFF#64 = 0x0000000000000006#64 := by
    apply BitVec.eq_of_getLsbD_eq
    intro k hk
    simp only [encodeCmd, cmdWord, BitVec.getLsbD_and, BitVec.getLsbD_append]
    cases dyn <;> interval_cases k <;> simp
  have := congrArg BitVec.toNat h
  rwa [BitVec.toNat_and] at this

theorem rd64 (addr : BitVec 32) : Statement (.rd64 addr) := by
  have h : (0#1 ++ addr) &&& 0x100000000#33 = 0x000000000#33 := by
    apply BitVec.eq_of_getLsbD_eq
    intro k hk
    simp only [BitVec.getLsbD_and, BitVec.getLsbD_append]
    interval_cases k <;> simp
  have := congrArg BitVec.toNat h
  rwa [BitVec.toNat_and] at this

theorem wr64 (addr : BitVec 32) (data : BitVec 64) : Statement (.wr64 addr data) := by
  have h : (1#1 ++ addr) &&& 0x100000000#33 = 0x100000000#33 := by
    apply BitVec.eq_of_getLsbD_eq
    intro k hk
    simp only [BitVec.getLsbD_and, BitVec.getLsbD_append]
    interval_cases k <;> simp
  have := congrArg BitVec.toNat h
  rwa [BitVec.toNat_and] at this

end Sys2Proof.Laws.OpcodeRow
end

