-- ==== Sys2Proof/Laws/Step.lean ====
section
/-!
SUPPORT. What a step is in each situation of the schedule, and what an access comes to.
-/

namespace Sys2Proof.Machine

/-! ### Steps -/

/-- The next event is a Host transaction. -/
theorem step_host (s : State) (header : BitVec 33) (data : BitVec 64) (rest : List Event)
    (h : s.schedule = .host header data :: rest) :
    step s = exec (decodeBus header data) { s with schedule := rest } := by
  simp [step, nextEvent, h, eventStep]

/-- The next event is the Engine's. -/
theorem step_engine (s : State) (rest : List Event) (h : s.schedule = .engine :: rest) :
    step s = engineStep { s with schedule := rest } := by
  simp [step, nextEvent, h, eventStep]

/-- The next event is an offer. -/
theorem step_offer (s : State) (o : Offer) (rest : List Event) (h : s.schedule = .offer o :: rest) :
    step s = offerEvent o { s with schedule := rest } := by
  simp [step, nextEvent, h, eventStep]

/-- The next event is the external reset. -/
theorem step_powerOn (s : State) (rest : List Event) (h : s.schedule = .powerOn :: rest) :
    step s = .next (State.powerOnReset { s with schedule := rest }) := by
  simp [step, nextEvent, h, eventStep]

/-- No event is left: the Engine moves. -/
theorem step_nil (s : State) (h : s.schedule = []) : step s = engineStep s := by
  simp [step, nextEvent, h]

/-- The Engine with a legal word in the slot performs it. -/
theorem engineStep_command (s : State) (v : BitVec 64) (i : Instr) (hs : s.slot = some v)
    (hd : decodeCmd v = .ok i) : engineStep s = exec i s := by
  simp [engineStep, hs, commandStep, hd]

/-- The Engine with an illegal word in the slot. -/
theorem engineStep_illegal (s : State) (v : BitVec 64) (e : DecodeError) (hs : s.slot = some v)
    (hd : decodeCmd v = .error e) : engineStep s = .next (s.illegalCommand v) := by
  simp [engineStep, hs, commandStep, hd]

/-- Every instruction completes. -/
theorem exec_next (i : Instr) (s : State) : ∃ t, exec i s = .next t := by
  cases i <;> exact ⟨_, rfl⟩

/-- An offer that keeps the contract leads on. -/
theorem admitOffer_next (s : State) (o : Offer) (t : State) (h : o.wellFormed s.blockLen.toNat = true) :
    admitOffer s o t = .next t := by rw [admitOffer, if_pos h]

/-- An offer of another length has no move. -/
theorem admitOffer_refused (s : State) (o : Offer) (t : State) (h : o.wellFormed s.blockLen.toNat = false) :
    admitOffer s o t = .refused .offerLength := by rw [admitOffer, if_neg (by simp [h])]

/-- All that admitting an offer can answer. -/
theorem admitOffer_eq_next (s : State) (o : Offer) (t u : State) (h : admitOffer s o t = .next u) :
    o.wellFormed s.blockLen.toNat = true ∧ u = t := by
  cases hw : o.wellFormed s.blockLen.toNat
  · rw [admitOffer_refused s o t hw] at h
    cases h
  · rw [admitOffer_next s o t hw] at h
    cases h
    exact ⟨rfl, rfl⟩

/-- The Engine's step is refused only for an offer of the wrong length met in a block cycle. -/
theorem engineStep_cases (s : State) :
    (∃ t, engineStep s = .next t) ∨
      (engineStep s = .refused .offerLength ∧ s.slot = none ∧ s.mode = .running ∧
        ∃ o rest, s.offers = o :: rest ∧ o.wellFormed s.blockLen.toNat = false) := by
  unfold engineStep
  split
  · unfold commandStep
    split
    · exact .inl (exec_next _ s)
    · exact .inl ⟨_, rfl⟩
  · rename_i hslot
    unfold offerStep
    split
    · exact .inl ⟨_, rfl⟩
    · rename_i o rest ho
      split
      · exact .inl ⟨_, rfl⟩
      · rename_i hm
        cases hw : o.wellFormed s.blockLen.toNat
        · exact .inr ⟨admitOffer_refused s o _ hw, hslot, hm, o, rest, ho, hw⟩
        · exact .inl ⟨_, admitOffer_next s o _ hw⟩

/-- The schedule's part of a step the Engine takes. -/
theorem step_moves (s : State) (h : EngineMoves s) : step s = engineStep s.popped := by
  rcases h with h | h
  · have hp : s.popped = s := by
      cases s
      cases h
      rfl
    rw [step_nil s h, hp]
  · cases hs : s.schedule with
    | nil => simp [hs] at h
    | cons e r =>
      have he : e = .engine := by simpa [hs] using h
      rw [step_engine s r (he ▸ hs), State.popped, hs]
      rfl

/-- All the ways an Engine step goes on. -/
theorem engineStep_next (s t : State) (h : engineStep s = .next t) :
    (∃ v i, s.slot = some v ∧ decodeCmd v = .ok i ∧ exec i s = .next t) ∨
    (∃ v e, s.slot = some v ∧ decodeCmd v = .error e ∧ t = s.illegalCommand v) ∨
    (∃ o rest, s.slot = none ∧ s.mode = .running ∧ s.offers = o :: rest ∧
      o.wellFormed s.blockLen.toNat = true ∧ t = (s.consume o rest).blockCycle o) ∨
    (∃ o rest, s.slot = none ∧ s.mode = .idle ∧ s.offers = o :: rest ∧ t = s.consume o rest) ∨
    (s.slot = none ∧ s.offers = [] ∧ t = s) := by
  unfold engineStep at h
  split at h
  · rename_i v hv
    unfold commandStep at h
    split at h
    · rename_i i hd
      exact .inl ⟨v, i, hv, hd, h⟩
    · rename_i e hd
      cases h
      exact .inr (.inl ⟨v, e, hv, hd, rfl⟩)
  · rename_i hv
    unfold offerStep at h
    split at h
    · rename_i ho
      cases h
      exact .inr (.inr (.inr (.inr ⟨hv, ho, rfl⟩)))
    · rename_i o rest ho
      split at h
      · rename_i hmd
        cases h
        exact .inr (.inr (.inr (.inl ⟨o, rest, hv, hmd, ho, rfl⟩)))
      · rename_i hmd
        obtain ⟨hw, rfl⟩ := admitOffer_eq_next _ _ _ _ h
        exact .inr (.inr (.inl ⟨o, rest, hv, hmd, ho, hw, rfl⟩))

/-- All the ways a step goes on: a Host transaction, a command performed, an illegal word, a block cycle, an offer
dropped, nothing to do, an offer made, the external reset. -/
theorem step_cases (s t : State) (h : step s = .next t) :
    (∃ i, HostIssues s i ∧ exec i s.popped = .next t) ∨
    (∃ i, Performs s i ∧ exec i s.popped = .next t) ∨
    (∃ v e, EngineMoves s ∧ s.slot = some v ∧ decodeCmd v = .error e ∧ t = s.popped.illegalCommand v) ∨
    (∃ o rest, RunsBlockCycle s o rest ∧ t = (s.popped.consume o rest).blockCycle o) ∨
    (∃ o rest, EngineMoves s ∧ s.slot = none ∧ s.mode = .idle ∧ s.offers = o :: rest ∧
      t = s.popped.consume o rest) ∨
    (EngineMoves s ∧ s.slot = none ∧ s.offers = [] ∧ t = s.popped) ∨
    (∃ o, s.schedule.head? = some (.offer o) ∧
      (t = { s.popped with consumed := s.consumed ++ [o] } ∨ t = { s.popped with offers := s.offers ++ [o] })) ∨
    (s.schedule.head? = some .powerOn ∧ t = s.popped.powerOnReset) := by
  by_cases hm : EngineMoves s
  · rw [step_moves s hm] at h
    rcases engineStep_next _ _ h with ⟨v, i, hv, hd, he⟩ | ⟨v, e, hv, hd, ht⟩ | ⟨o, rest, hv, hmd, ho, hw, ht⟩ |
      ⟨o, rest, hv, hmd, ho, ht⟩ | ⟨hv, ho, ht⟩
    · exact .inr (.inl ⟨i, ⟨hm, v, hv, hd⟩, he⟩)
    · exact .inr (.inr (.inl ⟨v, e, hm, hv, hd, ht⟩))
    · exact .inr (.inr (.inr (.inl ⟨o, rest, ⟨hm, hv, hmd, ho, hw⟩, ht⟩)))
    · exact .inr (.inr (.inr (.inr (.inl ⟨o, rest, hm, hv, hmd, ho, ht⟩))))
    · exact .inr (.inr (.inr (.inr (.inr (.inl ⟨hm, hv, ho, ht⟩)))))
  · cases hs : s.schedule with
    | nil => exact absurd (.inl hs) hm
    | cons e r =>
      have hpop : s.popped = { s with schedule := r } := by simp [State.popped, hs]
      cases e with
      | engine => exact absurd (.inr (by simp [hs])) hm
      | host hd d =>
        rw [step_host s hd d r hs, ← hpop] at h
        exact .inl ⟨_, ⟨hd, d, by simp [hs], rfl⟩, h⟩
      | offer o =>
        rw [step_offer s o r hs] at h
        obtain ⟨-, rfl⟩ := admitOffer_eq_next _ _ _ _ h
        refine .inr (.inr (.inr (.inr (.inr (.inr (.inl ⟨o, by simp, ?_⟩))))))
        rw [hpop]
        split
        · exact .inl rfl
        · exact .inr rfl
      | powerOn =>
        rw [step_powerOn s r hs, ← hpop] at h
        cases h
        exact .inr (.inr (.inr (.inr (.inr (.inr (.inr ⟨by simp, rfl⟩))))))

/-! ### Accesses -/

/-- A misaligned address is refused first (R376). -/
theorem access_misaligned (p : Params) (d : Item → Bool) (a : Addr) (h : a.extractLsb' 0 3 ≠ 0) :
    access p d a = .refused .busMisaligned := by
  unfold access
  rw [if_pos h]

/-- Then an unmapped one. -/
theorem access_unmapped (p : Params) (d : Item → Bool) (a : Addr) (h : a.extractLsb' 0 3 = 0)
    (hm : itemAt p a.toNat = none) : access p d a = .refused .busUnmapped := by simp [access, h, hm]

/-- Then one the rights refuse. -/
theorem access_denied (p : Params) (d : Item → Bool) (a : Addr) (i : Item) (h : a.extractLsb' 0 3 = 0)
    (hm : itemAt p a.toNat = some i) (hd : d i = true) : access p d a = .refused .accessDenied := by
  simp [access, h, hm, hd]

/-- Else the item is reached. -/
theorem access_granted (p : Params) (d : Item → Bool) (a : Addr) (i : Item) (h : a.extractLsb' 0 3 = 0)
    (hm : itemAt p a.toNat = some i) (hd : d i = false) : access p d a = .granted i := by
  simp [access, h, hm, hd]

/-- An element of a window is mapped exactly below its bound (R102, R103). -/
theorem element_some_iff (base bound a : Nat) (f : Nat → Item) (i : Item) :
    element base bound a f = some i ↔ (a - base) / 8 < bound ∧ i = f ((a - base) / 8) := by
  unfold element
  split <;> simp_all [eq_comm]

/-- What a granted access says of its address. -/
theorem access_granted_iff (p : Params) (d : Item → Bool) (a : Addr) (i : Item) :
    access p d a = .granted i ↔ a.extractLsb' 0 3 = 0 ∧ itemAt p a.toNat = some i ∧ d i = false := by
  constructor
  · intro h
    unfold access at h
    split at h
    · cases h
    · rename_i ha
      split at h
      · cases h
      · rename_i j hj
        split at h
        · cases h
        · rename_i hd
          cases h
          exact ⟨by simpa using ha, hj, by simpa using hd⟩
  · rintro ⟨h, hm, hd⟩
    exact access_granted p d a i h hm hd

/-- What a refused access says of its address, cause by cause (R376). -/
theorem access_refused (p : Params) (d : Item → Bool) (a : Addr) (c : Cause) (h : access p d a = .refused c) :
    (c = .busMisaligned ∧ a.extractLsb' 0 3 ≠ 0) ∨
    (c = .busUnmapped ∧ a.extractLsb' 0 3 = 0 ∧ itemAt p a.toNat = none) ∨
    (c = .accessDenied ∧ a.extractLsb' 0 3 = 0 ∧ ∃ i, itemAt p a.toNat = some i ∧ d i = true) := by
  unfold access at h
  split at h
  · rename_i ha
    cases h
    exact .inl ⟨rfl, ha⟩
  · rename_i ha
    split at h
    · rename_i hn
      cases h
      exact .inr (.inl ⟨rfl, by simpa using ha, hn⟩)
    · rename_i i hi
      split at h
      · rename_i hd
        cases h
        exact .inr (.inr ⟨rfl, by simpa using ha, i, hi, hd⟩)
      · cases h

/-- What a Host transaction comes to: a refused access, a read, or a permitted write to an item. -/
theorem host_cases (i : Instr) (s t : State) (hi : HostIssues s i) (he : exec i s.popped = .next t) :
    (∃ c a, (∃ v, i = .wr64 a v ∧ s.writeAccess a = .refused c ∧ t = s.popped.raise c 0 a) ∨
      (i = .rd64 a ∧ s.readAccess a = .refused c ∧ t = { s.popped.raise c 0 a with busRead := 0 })) ∨
    (∃ b, t = { s.popped with busRead := b }) ∨
    (∃ a v it, i = .wr64 a v ∧ a.extractLsb' 0 3 = 0 ∧ itemAt s.params a.toNat = some it ∧
      (it.readOnly || it.writeDenied s.mode) = false ∧ t = s.popped.writeItem it v) := by
  obtain ⟨hd, d, -, rfl⟩ := hi
  unfold decodeBus at *
  split at he
  · rename_i hb
    cases he
    cases hacc : s.popped.writeAccess (hd.extractLsb' 0 32) with
    | refused c => exact .inl ⟨c, _, .inl ⟨d, by rw [if_pos hb], hacc, rfl⟩⟩
    | granted it =>
      obtain ⟨h1, h2, h3⟩ := (access_granted_iff _ _ _ _).mp hacc
      exact .inr (.inr ⟨_, _, it, by rw [if_pos hb], h1, h2, h3, rfl⟩)
  · rename_i hb
    cases he
    cases hacc : s.popped.readAccess (hd.extractLsb' 0 32) with
    | refused c => exact .inl ⟨c, _, .inr ⟨by rw [if_neg hb], hacc, rfl⟩⟩
    | granted it => exact .inr (.inl ⟨_, rfl⟩)

end Sys2Proof.Machine
end

