-- ==== Sys2Proof/Tests/Slice0.lean ====
section
/-!
SUPPORT. The model's own tests. Expected values come from the spec's vectors (95_test_vectors.md), whose ids stand in
the docstrings; the witnesses show, for each statement with hypotheses, states and operands that meet them.
-/

open Sys2Proof Sys2Proof.Machine

namespace Sys2Proof.Tests

/-! ### Helpers -/

/-- The state an outcome answers. -/
def after : Host.Outcome State Fault Refusal → State
  | .next t => t
  | _ => State.reset

/-- The state after reset with a session running. -/
def run0 : State := { State.reset with mode := .running }

/-- A word in the slot; with no event left, the Engine performs it. -/
def held (s : State) (v : BitVec 64) : State := { s with slot := some v }

/-- A Host transaction as the next event. -/
def issues (s : State) (header : BitVec 33) (data : BitVec 64) : State := { s with schedule := [.host header data] }

/-- FIR stage 0 averaging two samples, blocks of two (95 P2 without its dynamics). -/
def avg (s : State) : State :=
  { s with
    act := { s.act with fir0 := { taps := 2, h := [f64Half, f64Half, f64Zero, f64Zero] } }
    filt := { s.filt with dl0 := [f64Zero] }
    blockLen := 2 }

/-- An offer of two samples, `[1.0, 0.6]` (95 P2). -/
def offer2 : Offer := { samples := [f64One, 0x3FE3333333333333#64], ovr := false, udr := false, novalid := false }

/-! ### WellFormed: every check has a term it refuses -/

theorem test_offer_length_refused : offer2.wellFormed 3 = false ∧ offer2.wellFormed 2 = true := by decide

theorem test_offer_novalid_any_length : ({ offer2 with novalid := true } : Offer).wellFormed 7 = true := by decide

/-! ### Decoding: words written out from 95 §3 -/

theorem test_decode_nop : decodeCmd 0x0000000000000000#64 = .ok .nop := by decide
theorem test_decode_reset : decodeCmd 0x0000000000000001#64 = .ok .reset := by decide
theorem test_decode_commit : decodeCmd 0x0000000000000002#64 = .ok .commit := by decide
theorem test_decode_start : decodeCmd 0x0000000000000003#64 = .ok .start := by decide
theorem test_decode_stop : decodeCmd 0x0000000000000004#64 = .ok .stop := by decide
theorem test_decode_flush : decodeCmd 0x0000000000000405#64 = .ok (.flush 0x04#5) := by decide
theorem test_decode_flushall : decodeCmd 0x0000000000001F05#64 = .ok (.flush 0x1F#5) := by decide
theorem test_decode_process : decodeCmd 0x0000000000020006#64 = .ok (.process 2#16 false) := by decide
theorem test_decode_process_dyn : decodeCmd 0x0000000004000106#64 = .ok (.process 1024#16 true) := by decide
theorem test_decode_process_max : decodeCmd 0x00000000FFFF0006#64 = .ok (.process 0xFFFF#16 false) := by decide
theorem test_decode_clrpeak : decodeCmd 0x0000000000000007#64 = .ok .clrpeak := by decide
theorem test_decode_rd64 : decodeBus 0x001000010#33 0 = .rd64 0x01000010#32 := by decide
theorem test_decode_wr64 :
    decodeBus 0x100010008#33 0x3FE0000000000000#64 = .wr64 0x00010008#32 0x3FE0000000000000#64 := by decide

theorem test_decode_bytes : decodeCmdBytes [0x06#8, 0x01, 0x00, 0x04, 0x00, 0x00, 0x00, 0x00, 0xAA] =
    .ok (.process 1024#16 true, [0xAA#8]) := by decide

theorem test_illegal_opcode : decodeCmd 0x0000000000000008#64 = .error (.opcodeReserved 0x08#8) := by decide
theorem test_illegal_high : decodeCmd 0x0000000100000002#64 = .error .highBitsNotZero := by decide
theorem test_illegal_reset_a8 : decodeCmd 0x0000000000000101#64 = .error .a8NotZero := by decide
theorem test_illegal_process_a8 : decodeCmd 0x0000000000000206#64 = .error .a8NotZero := by decide
theorem test_illegal_flush_a8 : decodeCmd 0x0000000000002005#64 = .error .a8NotZero := by decide
theorem test_illegal_flush_a16 : decodeCmd 0x0000000000010005#64 = .error .a16NotZero := by decide
theorem test_illegal_start_a16 : decodeCmd 0x0000000000010003#64 = .error .a16NotZero := by decide
theorem test_truncated : decodeCmdBytes [0x00#8] = .error .truncated := by decide

theorem test_table_word : decodeTableWord 40 0x100000010 = some (.wr64 0x10#32 0) ∧
    decodeTableWord 64 0x405 = some (.flush 0x04#5) ∧ decodeTableWord 64 0x8 = none := by decide

theorem test_fetch_command : step (State.reset.withFetchWord 64 0x3) = exec .start { State.reset with slot := some 3#64 } :=
  rfl

theorem test_fetch_bus : step (State.reset.withFetchWord 40 0x000000018) = exec (.rd64 0x18#32) State.reset := rfl

/-! ### binary64 arithmetic and the stages -/

/-- 0.1 + 0.2 rounds up (the accumulation of 95 F3). -/
theorem test_fadd_rounds : fadd 0x3FB999999999999A#64 0x3FC999999999999A#64 = 0x3FD3333333333334#64 := by decide

/-- `fdiv(0.9, 5.0) = 0.18` (95 L1.1c). -/
theorem test_fdiv_rounds : fdiv 0x3FECCCCCCCCCCCCD#64 0x4014000000000000#64 = 0x3FC70A3D70A3D70A#64 := by decide

/-- `2.0 * 1e308` overflows to infinity (95 F5). -/
theorem test_fmul_overflow : fmul f64Two 0x7FE1CCF385EBC8A0#64 = 0x7FF0000000000000#64 := by decide

/-- 95 F3. -/
theorem test_fir_F3 :
    firBlock ⟨3, [0x3FB999999999999A#64, 0x3FC999999999999A#64, 0x3FD3333333333333#64]⟩ [f64One, f64One] [f64One] =
      ([0x3FE3333333333334#64], [f64One, f64One]) := by decide

/-- 95 F2. -/
theorem test_fir_F2 :
    firBlock ⟨3, [f64Half, 0x3FD0000000000000#64, 0x3FD0000000000000#64]⟩
      [0x4020000000000000#64, 0x4010000000000000#64] [0xC010000000000000#64] =
      ([f64One], [0xC010000000000000#64, 0x4020000000000000#64]) := by decide

/-- 95 F4a and F4b: the accumulation does not start from `+0.0`. -/
theorem test_fir_F4 :
    firBlock ⟨1, [f64One]⟩ [] [0x8000000000000000#64] = ([0x8000000000000000#64], []) ∧
    firBlock ⟨2, [f64One, f64One]⟩ [f64Zero] [0x8000000000000000#64] = ([f64Zero], [0x8000000000000000#64]) := by
  decide

/-- 95 B2. -/
theorem test_biquad_B2 :
    biquadBlock ⟨f64Half, f64Half, 0x3FD0000000000000#64, 0x3FD0000000000000#64, 0x3FC0000000000000#64⟩ BqState.zero
      [f64One, f64Zero, f64Zero, f64Zero, f64Two] =
      ([f64Half, 0x3FD8000000000000#64, 0x3FB8000000000000#64, 0xBFB2000000000000#64, 0x3FF0180000000000#64],
        ⟨0x3FE83C0000000000#64, 0x3FD7F40000000000#64⟩) := by decide

/-- 95 B3, first sample: the identity biquad turns `-0.0` into `+0.0`. -/
theorem test_biquad_B3 :
    biquadSample BiquadCfg.reset BqState.zero 0x8000000000000000#64 = (f64Zero, ⟨f64Zero, 0x8000000000000000#64⟩) := by
  decide

/-- The dynamics parameters of 95 §6: `THR = 0.5`, `RATIO = 4`, `KNEE = 0.2`. -/
def dynCfg : Cfg :=
  { Cfg.reset Config.params with thr := f64Half, ratio := 0x4010000000000000#64, knee := 0x3FC999999999999A#64 }

/-- 95 §6: 0.3 is below the knee, 0.5 in it, -0.8 above it. -/
theorem test_dyn_regions :
    dynSample dynCfg 0x3FD3333333333333#64 = (0x3FD3333333333333#64, f64One) ∧
    dynSample dynCfg f64Half = (0x3FE04E447BEC6EE1#64, 0x3FEF666666666666#64) ∧
    dynSample dynCfg 0xBFE999999999999A#64 = (0xBFF0842108421085#64, 0x3FE8CCCCCCCCCCCC#64) := by decide

/-- 95 V4 and V11: the first failing item, in order. -/
theorem test_validate_order :
    validate Config.params { Cfg.reset Config.params with
      band2 := { BiquadCfg.reset with a2 := 0x7FF0000000000000#64 } } = some ⟨3, 4⟩ ∧
    validate Config.params { Cfg.reset Config.params with
      fir1 := { FirCfg.reset Config.params with taps := 0 }, thr := 0x7FF8000000000000#64 } =
      some ⟨1, 0xFFFFFFFF⟩ := by decide

/-- 95 V7: `KNEE = -0.0` is valid. -/
theorem test_validate_negative_zero_knee :
    validate Config.params { Cfg.reset Config.params with knee := 0x8000000000000000#64 } = none := by decide

/-! ### Commands, at most two tests each -/

/-- 95 M29: `cmd nop` with `IRQ_EN = 1`. -/
theorem test_nop_irq : (after (step (held { State.reset with irqEn := 1 } 0x0))).irqStatus = 0x1#4 ∧
    (after (step (held { State.reset with irqEn := 1 } 0x0))).statusReg = 0x8 := by decide

/-- 95 M28: the reset word with the slot full. -/
theorem test_reset_slot_full :
    (after (step (issues (held { run0 with irqStatus := 0xF } 0x2) 0x100000010 0x1))).irqStatus = 0#4 ∧
    (after (step (issues (held { run0 with irqStatus := 0xF } 0x2) 0x100000010 0x1))).slot = none ∧
    (after (step (issues (held { run0 with irqStatus := 0xF } 0x2) 0x100000010 0x1))).mode = .idle := by decide

/-- 95 V13: a changed tap count zeroes the delay line. -/
theorem test_commit_taps :
    (after (step (held { avg State.reset with
      sh := { State.reset.sh with fir0 := { taps := 3, h := [f64Half, f64Zero, f64Zero, f64Zero] } } } 0x2))).filt.dl0 =
      [f64Zero, f64Zero] := by decide

/-- 95 V5: `SH_RATIO = 0.0`. -/
theorem test_commit_rejected :
    (after (step (held { State.reset with sh := { State.reset.sh with ratio := f64Zero } } 0x2))).errCauseReg =
      0x0000000100000505#64 ∧
    (after (step (held { State.reset with sh := { State.reset.sh with ratio := f64Zero } } 0x2))).irqStatus = 0x9#4 := by
  decide

/-- 95 L1.7a: START twice. -/
theorem test_start_twice : (after (step (held run0 0x3))).errCauseReg = 0x000000030000000F#64 ∧
    (after (step (held run0 0x3))).errorReg = 0x8000#64 ∧ (after (step (held run0 0x3))).irqStatus = 0x9#4 ∧
    (after (step (held run0 0x3))).statusReg = 0x1#64 := by decide

/-- 95 M36: START zeroes the delay lines. -/
theorem test_start_fresh :
    (after (step (held { avg State.reset with
      filt := { State.reset.filt with dl0 := [f64One] }, recLen := 3, peak := f64One } 0x3))).filt.dl0 = [f64Zero] := by
  decide

/-- 95 L1.8a: STOP while IDLE. -/
theorem test_stop_idle : (after (step (held { State.reset with resultLen := 3 } 0x4))).resultLen = 0 ∧
    (after (step (held { State.reset with resultLen := 3 } 0x4))).error = 0 := by decide

/-- 95 M32: `flush 0x04`. -/
theorem test_flush_one :
    (after (step (held { State.reset with filt := { State.reset.filt with
      bq2 := ⟨f64One, f64Two⟩, bq3 := ⟨f64Two, f64One⟩ } } 0x405))).filt =
      { State.reset.filt with bq3 := ⟨f64Two, f64One⟩ } := by decide

/-- 95 M33: FLUSH while RUNNING. -/
theorem test_flush_running : (after (step (held run0 0x1F05))).errCauseReg = 0x00001F0500000002#64 := by decide

/-- The averager with `IN_BUF = [1, 2]`, `OUT_BUF[0]` written before, and `process 2` in the slot. -/
def avgIn : State :=
  held (((avg State.reset).storeWord 0x200000 f64Zero).storeWords 0x100000 [f64One, f64Two]) 0x20006

/-- 95 M37 with two samples: `[1, 2]` gives `[0.5, 1.5]`, `DL[0] = [2]` and `PEAK = 1.5`. -/
theorem test_process_block : avgIn.runBlock false (avgIn.memWords 0x100000 2) =
    ([f64Half, 0x3FF8000000000000#64],
      { avgIn with filt := { avgIn.filt with dl0 := [f64Two] }, peak := 0x3FF8000000000000#64 }) := by
  rw [show avgIn.memWords 0x100000 2 = [f64One, f64Two] by decide]
  rfl

/-- 95 M37: where the outputs go. -/
theorem test_process_stores : ∃ t, exec (.process 2#16 false) avgIn = .next t ∧
    t.memWords 0x200000 2 = [f64Half, 0x3FF8000000000000#64] ∧ t.blkCnt = 1 := by
  have he : exec (.process 2#16 false) avgIn = .next (avgIn.processBlock 2 false).finishCommand :=
    execProcess_idle avgIn 2#16 false rfl (by decide) (by decide)
  refine ⟨_, he, ?_, by simp; rfl⟩
  generalize hs : avgIn.processBlock 2 false = s
  have hm : s.mem = (avgIn.storeWords outBase [f64Half, 0x3FF8000000000000#64]).mem := by
    rw [← hs, State.processBlock_mem, show inBase = 0x100000 from rfl, test_process_block]
    rfl
  have hp : s.powerOns = (avgIn.storeWords outBase [f64Half, 0x3FF8000000000000#64]).powerOns := by
    rw [← hs, State.processBlock_powerOns]
    rfl
  rw [State.memWords_congr (State.finishCommand_mem s) (State.finishCommand_powerOns s), State.memWords_congr hm hp]
  exact State.memWords_storeWords _ outBase [f64Half, 0x3FF8000000000000#64]

/-- 95 M35: `process 9` when `N_MAX = 8`. -/
theorem test_process_too_long : (after (step (held State.reset 0x90006))).errCauseReg = 0x0009000600000003#64 := by
  decide

/-- 95 M31: CLR_PEAK. -/
theorem test_clrpeak : (after (step (held { run0 with peak := f64Two } 0x7))).peak = f64Zero := by decide

/-- 95 M2, M11: `PARAM`, and a delay-line element beyond the window. -/
theorem test_rd64 : (after (exec (.rd64 0x08) State.reset)).busRead = 0x0000000800040008#64 ∧
    (after (exec (.rd64 0x50018) State.reset)).errCauseReg = 0x0005001800000006#64 := by decide

/-- 95 M16: `BLOCK_LEN` ignores bits 63:16. -/
theorem test_wr64 : (after (exec (.wr64 0x40 0x10004) State.reset)).blockLen = 4#16 ∧
    (after (exec (.wr64 0x40 0x10004) State.reset)).error = 0 := by decide

/-- 95 S3: two blocks of two into three places drop the second block's sample 1. -/
theorem test_record_overflow :
    (State.record { State.reset with params := { Config.params with recMax := ⟨3, by decide⟩ }, recLen := 2 }
      [f64One, f64Two]).errCauseReg = 0x000000010000000E#64 := by decide

/-! ### Witnesses: states and operands that meet the hypotheses of each statement, clause by clause -/

/-- DecodeInvertsEncode, each operand at its largest value. -/
theorem test_hyp_wellFormed : (Instr.flush 0x1F#5).wellFormed = true ∧ (Instr.process 0xFFFF#16 true).wellFormed = true ∧
    (Instr.rd64 0xFFFFFFFF#32).wellFormed = true ∧ (Instr.wr64 0xFFFFFFFF#32 0).wellFormed = true := by decide

/-- LegalWordIsItsCommandsEncoding; the other words are in the decode tests. -/
theorem test_hyp_legal_word : decodeCmd 0x00000000FFFF0106#64 = .ok (.process 0xFFFF#16 true) := by decide

/-- IllegalWordRaisesCauseOne: the Engine moves on a full slot, and each of the three illegal forms exists. -/
theorem test_hyp_illegal_word : EngineMoves (held State.reset 0x8) ∧ (held State.reset 0x8).slot = some 0x8 ∧
    8 ≤ ((0x8#64).extractLsb' 0 8).toNat ∧ (0x0000000100000000#64).extractLsb' 32 32 ≠ 0 ∧
    MbzViolated 0x2005#64 ∧ MbzViolated 0x10005#64 ∧ MbzViolated 0x206#64 ∧ MbzViolated 0x101#64 ∧
    MbzViolated 0x10003#64 := by
  refine ⟨.inl rfl, rfl, ?_⟩
  unfold MbzViolated
  decide

/-- StepPerformsTheHeldCommand, HeldCommandComesBeforeABlockCycle. -/
theorem test_hyp_performs : Performs (held run0 0x405) (.flush 0x04#5) := ⟨.inl rfl, _, rfl, rfl⟩

/-- The same with the Engine's event at the head of the schedule. -/
theorem test_hyp_performs_event : Performs (State.reset.withFetchWord 64 0x3) .start := ⟨.inr rfl, _, rfl, rfl⟩

/-- StepIssuesTheHostTransaction. -/
theorem test_hyp_issues : HostIssues (issues State.reset 0x100000010 0x1) (.wr64 0x10 0x1) := ⟨_, _, rfl, by decide⟩

/-- OnlyAWrongOfferHasNoMove: both ways a wrong offer is met. -/
theorem test_hyp_wrong_offer : step { State.reset with schedule := [.offer offer2] } = .refused .offerLength ∧
    step { run0 with offers := [offer2] } = .refused .offerLength := ⟨rfl, rfl⟩

/-- PowerOnResetRedrawsTheMemories. -/
theorem test_hyp_power_on : ({ run0 with schedule := [.powerOn] } : State).schedule.head? = some .powerOn := rfl

/-- CmdWriteHandsTheWordOver: its three branches. -/
theorem test_hyp_cmd_write : exec (.wr64 0x10 0x1) run0 = exec .reset run0 ∧
    (after (exec (.wr64 0x10 0x0) run0)).slot = some 0 ∧
    (after (exec (.wr64 0x10 0x0) (held State.reset 0x2))).errCauseReg = 0x0000000000000004#64 := by
  refine ⟨rfl, ?_⟩
  decide

/-- RaiseRecordsTheFirstError: with and without an earlier error. -/
theorem test_hyp_raise : State.reset.errorReg = 0 ∧ (State.reset.raise .regValue 0 0).errorReg ≠ 0 := by decide

/-- ErrorBitsStayUntilTheHostClearsThem (95 M19): `ERROR = 0x8060`, `wr ERROR, 0x20`. -/
theorem test_hyp_error_cleared :
    ∃ t, step (issues { State.reset with error := 0x4030 } 0x100000020 0x20) = .next t ∧
      t.errorReg = 0x8040#64 ∧ t.error.getLsbD 4 = false := ⟨_, rfl, by decide, by decide⟩

/-- CommitAppliesOrRejects: rejected; applied with other and with the same tap counts. -/
theorem test_hyp_commit :
    validate Config.params { State.reset.sh with fir0 := { State.reset.sh.fir0 with taps := 5 } } =
      some ⟨0, 0xFFFFFFFF⟩ ∧
    validate Config.params State.reset.sh = none ∧ State.reset.sh.fir0.taps = State.reset.act.fir0.taps ∧
    State.reset.sh.fir0.taps ≠ (avg State.reset).act.fir0.taps ∧ validate Config.params (avg State.reset).act = none := by
  decide

/-- ValidateReportsTheFirstFailure: a tap count of 0 and of `T_MAX + 1`, and a last coefficient that is infinite. -/
theorem test_hyp_fir_fails : FirFails Config.params ⟨0, []⟩ 0xFFFFFFFF#32 ∧ FirFails Config.params ⟨5, []⟩ 0xFFFFFFFF#32 ∧
    FirFails Config.params ⟨4, [f64One, f64Zero, f64Zero, 0x7FF0000000000000#64]⟩ 3#32 ∧
    FirPasses Config.params (FirCfg.reset Config.params) ∧
    FirPasses Config.params ⟨4, [f64One, f64Zero, f64Zero, f64Zero]⟩ := by
  unfold FirFails FirPasses
  refine ⟨.inl (by decide), .inl (by decide), .inr ⟨by decide, by decide, 3, by decide⟩, by decide, by decide⟩

/-- Its biquad clauses: the first and the last coefficient. -/
theorem test_hyp_biquad_fails : BiquadFails { BiquadCfg.reset with b0 := 0x7FF0000000000000#64 } 0#32 ∧
    BiquadFails { BiquadCfg.reset with a2 := 0xFFF0000000000000#64 } 4#32 ∧ BiquadPasses BiquadCfg.reset := by
  unfold BiquadFails BiquadPasses
  exact ⟨⟨0, by decide⟩, ⟨4, by decide⟩, by decide⟩

/-- Its dynamics clauses: `THR`, `RATIO = 0`, `KNEE` negative, and the reset parameters. -/
theorem test_hyp_dyn_fails : DynFails { Cfg.reset Config.params with thr := 0x7FF8000000000000#64 } 0#32 ∧
    DynFails { Cfg.reset Config.params with ratio := f64Zero } 1#32 ∧
    DynFails { Cfg.reset Config.params with knee := 0xBFB999999999999A#64 } 2#32 ∧ DynPasses (Cfg.reset Config.params) := by
  unfold DynFails DynPasses
  decide

/-- RecommitKeepsTheDelayLines. -/
theorem test_hyp_recommit : validate State.reset.params State.reset.sh = none ∧ State.reset.sh = State.reset.act := by
  decide

/-- Start, Stop, Flush and Process by mode; the ends of PROCESS's legal range and its illegal neighbours. -/
theorem test_hyp_modes : State.reset.mode = .idle ∧ run0.mode = .running ∧ 1 ≤ (1#16).toNat ∧
    (8#16).toNat ≤ State.reset.params.nMax ∧ (0#16).toNat < 1 ∧ State.reset.params.nMax < (9#16).toNat := by decide

/-- AddressMapIsTheTable: the last element of each bounded window, and the hole behind it. -/
theorem test_hyp_windows : itemAt Config.params 0x100038 = some (.inBuf 7) ∧ itemAt Config.params 0x100040 = none ∧
    itemAt Config.params 0x200038 = some (.outBuf 7) ∧ itemAt Config.params 0x200040 = none ∧
    itemAt Config.params 0x1000038 = some (.recBuf 7) ∧ itemAt Config.params 0x1000040 = none ∧
    itemAt Config.params 0x10018 = some (.shadow (.coef .lpf 3)) ∧ itemAt Config.params 0x10020 = none ∧
    itemAt Config.params 0x50010 = some (.delay .lpf 2) ∧ itemAt Config.params 0x50018 = none ∧
    itemAt Config.params 0x60 = some .blkCnt ∧ itemAt Config.params 0x68 = none := by decide

/-- MisalignedTransactionIsRecorded (95 M6, M7). -/
theorem test_hyp_misaligned : (0x4#32).toNat % 8 ≠ 0 ∧ (0x69#32).toNat % 8 ≠ 0 := by decide

/-- UnmappedTransactionIsRecorded (95 M8): no item has the address `0x68`. -/
theorem test_hyp_unmapped : (0x68#32).toNat % 8 = 0 ∧
    ∀ i : Item, i.exists_ State.reset.params → i.addr ≠ (0x68#32).toNat := by
  refine ⟨by decide, fun i _ h => ?_⟩
  have hc : ∀ (c : CfgItem) (p w0 w1 : Nat), 0x1000 ≤ p → 0x1000 ≤ w0 → 0x1000 ≤ w1 → 0x1000 ≤ c.addr p w0 w1 := by
    intro c p w0 w1 h1 h2 h3
    unfold CfgItem.addr
    split <;> omega
  cases i with
  | shadow c => have := hc c 0x1000 0x10000 0x20000; simp only [Item.addr] at h; simp at h this; omega
  | active c => have := hc c 0x2000 0x30000 0x40000; simp only [Item.addr] at h; simp at h this; omega
  | delay s k => cases s <;> · simp only [Item.addr] at h; simp at h; omega
  | bqReg s r => simp only [Item.addr] at h; simp at h; omega
  | inBuf k => simp only [Item.addr] at h; simp at h; omega
  | outBuf k => simp only [Item.addr] at h; simp at h; omega
  | recBuf k => simp only [Item.addr] at h; simp at h; omega
  | _ => simp [Item.addr] at h

/-- DeniedTransactionIsRecorded (95 M23, M12): a delay register while RUNNING, and `ID`. -/
theorem test_hyp_denied : (Item.bqReg .band1 .s1).exists_ run0.params ∧ (Item.bqReg .band1 .s1).addr = (0x70000#32).toNat ∧
    ¬ mayRead run0.mode (.bqReg .band1 .s1) ∧ Item.id.exists_ run0.params ∧ Item.id.addr = (0#32).toNat ∧
    ¬ mayWrite run0.mode .id := by
  refine ⟨trivial, rfl, ?_, trivial, rfl, id⟩
  simp [mayRead, run0]

/-- AllowedReadReturnsTheItem: the last recording element, which only IDLE may read. -/
theorem test_hyp_allowed : (Item.recBuf 7).exists_ State.reset.params ∧ (Item.recBuf 7).addr = (0x1000038#32).toNat ∧
    mayRead State.reset.mode (.recBuf 7) := ⟨by unfold Item.exists_; decide, rfl, rfl⟩

/-- BlockLenTakesOnlyLegalValues: both ends and their neighbours (95 M14 to M16). -/
theorem test_hyp_block_len : (after (exec (.wr64 0x40 0) State.reset)).errorReg = 0x10000#64 ∧
    (after (exec (.wr64 0x40 1) State.reset)).blockLen = 1 ∧ (after (exec (.wr64 0x40 8) State.reset)).blockLen = 8 ∧
    (after (exec (.wr64 0x40 9) State.reset)).errCauseReg = 0x0000004000000010#64 := by decide

/-- ShadowWriteStoresTheValue: the last coefficient. -/
theorem test_hyp_shadow : State.reset.sh.fir0.h.length = State.reset.params.tMax ∧
    State.reset.sh.fir1.h.length = State.reset.params.tMax ∧ (Item.shadow (.coef .hpf 3)).exists_ State.reset.params ∧
    (Item.shadow (.coef .hpf 3)).addr = (0x20018#32).toNat :=
  ⟨by decide, by decide, by unfold Item.exists_; decide, rfl⟩

/-- DelayLineReloadAndWindow: the last element of the line, and the last of the window, beyond the line. -/
theorem test_hyp_delay : ((avg State.reset).filt.dl .lpf).length = ((avg State.reset).act.fir .lpf).taps.toNat - 1 ∧
    0 < ((avg State.reset).act.fir .lpf).taps.toNat - 1 ∧ ((avg State.reset).act.fir .lpf).taps.toNat - 1 ≤ 2 ∧
    2 < (avg State.reset).params.tMax - 1 ∧ (Item.delay .lpf 0).addr = (0x50000#32).toNat ∧
    (Item.delay .lpf 2).addr = (0x50010#32).toNat := by decide

/-- BiquadRegisterReload (95 M22) and InBufWriteStoresOneElement. -/
theorem test_hyp_reload : (Item.bqReg .band1 .s2).addr = (0x70008#32).toNat ∧ 7 < State.reset.params.nMax ∧
    (Item.inBuf 7).addr = (0x100038#32).toNat := by decide

/-- FirSampleFollowsTheRule and FirBlockKeepsTheNewestInputs: one tap, and two. -/
theorem test_hyp_fir : 1 ≤ (FirCfg.reset Config.params).taps.toNat ∧
    (FirCfg.reset Config.params).taps.toNat ≤ (FirCfg.reset Config.params).h.length ∧
    ([] : List F64).length = (FirCfg.reset Config.params).taps.toNat - 1 ∧
    2 ≤ (avg State.reset).act.fir0.taps.toNat ∧
    (avg State.reset).filt.dl0.length = (avg State.reset).act.fir0.taps.toNat - 1 := by decide

/-- ZeroGainBiquadPassesFiniteSamples: the 3000 Hz band of 95 L1.1a on 0.3. -/
theorem test_hyp_zero_gain : isZero BqState.zero.s1 = true ∧ isFinite 0x3FD3333333333333#64 = true ∧
    0x3FD3333333333333#64 ≠ 0x8000000000000000#64 ∧
    isFinite (fmul 0xBFF81F1E3E3875B6#64 0x3FD3333333333333#64) = true ∧
    isFinite (fmul 0x3FE5032A22647773#64 0x3FD3333333333333#64) = true := by decide

/-- BlockSplitEquivalence: two blocks that together fill `IN_BUF`. -/
theorem test_hyp_split : State.reset.mode = .idle ∧ 1 ≤ (1#16).toNat ∧ 1 ≤ (7#16).toNat ∧
    (1#16).toNat + (7#16).toNat ≤ State.reset.params.nMax ∧ [f64One].length = (1#16).toNat ∧
    (zeros 7).length = (7#16).toNat := by decide

/-- DynamicsFollowsTheThreeRegions: below, above, and in the knee at `lo = 0.4`. -/
theorem test_hyp_regions :
    flt (fabs 0x3FD3333333333333#64) (fsub dynCfg.thr (fmul dynCfg.knee f64Half)) = true ∧
    flt (fabs 0xBFE999999999999A#64) (fsub dynCfg.thr (fmul dynCfg.knee f64Half)) = false ∧
    fgt (fabs 0xBFE999999999999A#64) (fadd dynCfg.thr (fmul dynCfg.knee f64Half)) = true ∧
    flt (fabs 0x3FD999999999999A#64) (fsub dynCfg.thr (fmul dynCfg.knee f64Half)) = false ∧
    fgt (fabs 0x3FD999999999999A#64) (fadd dynCfg.thr (fmul dynCfg.knee f64Half)) = false := by decide

/-- ResetDynamicsIsTheIdentity: the largest finite number. -/
theorem test_hyp_reset_dyn : (Cfg.reset Config.params).thr = 0x3FF0000000000000#64 ∧
    (Cfg.reset Config.params).ratio = 0x3FF0000000000000#64 ∧ (Cfg.reset Config.params).knee = 0x0000000000000000#64 ∧
    isFinite 0x7FEFFFFFFFFFFFFF#64 = true := by decide

/-- FinishSampleFollowsTheRule (95 V18): dynamics of 2.0 raises cause 12 alone. -/
theorem test_hyp_finish : ((0xC030000000000000#64, 0xBFC0000000000000#64) : F64 × F64) =
      (if true then dynSample dynCfg f64Two else (f64Two, 0x3FF0000000000000#64)) ∧
    (finishSample { State.reset with act := dynCfg } true 0 f64Two).2.errorReg = 0x1000#64 := by decide

/-- PeakIsTheLargestMagnitude. -/
theorem test_hyp_peak : isNaN State.reset.peak = false := by decide

/-- BlockCycleRunsTheOffer, with and without a stop request, and TransportFaultsAreLogged with `novalid`. -/
theorem test_hyp_block_cycle : RunsBlockCycle { avg run0 with offers := [offer2] } offer2 [] ∧
    RunsBlockCycle { avg run0 with offers := [offer2], stopReq := true } offer2 [] ∧
    RunsBlockCycle { avg run0 with offers := [{ offer2 with novalid := true }] } { offer2 with novalid := true } [] :=
  ⟨⟨.inl rfl, rfl, rfl, rfl, rfl⟩, ⟨.inl rfl, rfl, rfl, rfl, rfl⟩, ⟨.inl rfl, rfl, rfl, rfl, rfl⟩⟩

/-- RecordingKeepsTheFirstSamples: a block that just fits, and one that does not. -/
theorem test_hyp_record : State.reset.recLen.toNat ≤ State.reset.params.recCap ∧
    State.reset.recLen.toNat + (zeros 8).length ≤ State.reset.params.recCap ∧
    State.reset.params.recCap < State.reset.recLen.toNat + (zeros 9).length ∧ 7 < (zeros 8).length ∧
    State.reset.recLen.toNat + 7 < State.reset.params.recCap := by decide

/-- IdleOfferIsDropped and OfferWaitsForTheEngine. -/
theorem test_hyp_offers : ({ avg State.reset with schedule := [.offer offer2] } : State).schedule.head? = some (.offer offer2) ∧
    offer2.wellFormed (avg State.reset).blockLen.toNat = true ∧ (avg State.reset).mode = .idle ∧
    (avg State.reset).slot = none ∧ (avg run0).mode = .running ∧ (held (avg State.reset) 0).slot ≠ none := by decide

/-- OfferWaitsForTheEngine: an offer that still waits while IDLE, and nothing to do. -/
theorem test_hyp_engine_idle : EngineMoves { State.reset with offers := [offer2] } ∧
    ({ State.reset with offers := [offer2] } : State).slot = none ∧
    ({ State.reset with offers := [offer2] } : State).mode = .idle ∧ EngineMoves run0 ∧ run0.slot = none ∧
    run0.offers = [] := ⟨.inl rfl, rfl, rfl, .inl rfl, rfl, rfl⟩

/-- EveryStepKeepsTheInvariant: a running state that meets the invariant and steps. -/
theorem test_hyp_invariant : (held run0 0x4).Inv ∧ ∃ t, step (held run0 0x4) = .next t :=
  ⟨{ memWf := by decide, blockLen := by decide, stopReq := by decide, recLen := by decide, resultLen := by decide
     noResult := by decide, shCoefs := by decide, actCoefs := by decide, actValid := by decide, delayLen := by decide
     slotNotReset := by decide, peak := by decide }, _, rfl⟩

/-- ModeChangesOnlyByStartStopOrReset: START, the observed stop, and the three resets. -/
theorem test_hyp_mode_changes : (∃ t, step (held State.reset 0x3) = .next t ∧ t.mode = .running) ∧
    (∃ t, step { avg run0 with offers := [offer2], stopReq := true } = .next t ∧ t.mode = .idle) ∧
    (∃ t, step (issues run0 0x100000010 0x1) = .next t ∧ t.mode = .idle) ∧
    (∃ t, step (held run0 0x1) = .next t ∧ t.mode = .idle) ∧
    ∃ t, step { run0 with schedule := [.powerOn] } = .next t ∧ t.mode = .idle :=
  ⟨⟨_, rfl, by decide⟩, ⟨_, rfl, by simp⟩, ⟨_, rfl, by decide⟩, ⟨_, rfl, by decide⟩, ⟨_, rfl, by decide⟩⟩

/-- ActiveConfigurationChangesOnlyByCommit: a COMMIT, and a reset. -/
theorem test_hyp_act_changes : (∃ t, step (held (avg State.reset) 0x2) = .next t ∧ t.act ≠ (avg State.reset).act) ∧
    ∃ t, step (held (avg State.reset) 0x1) = .next t ∧ t.act ≠ (avg State.reset).act :=
  ⟨⟨_, rfl, by decide⟩, ⟨_, rfl, by decide⟩⟩

/-- FilterStateChangesOnlyByItsSixCauses: each cause but PROCESS, which `test_process_block` shows. -/
theorem test_hyp_filter_changes :
    (∃ t, step { avg run0 with offers := [offer2] } = .next t ∧ t.filt ≠ (avg run0).filt) ∧
    (∃ t, step (held { State.reset with filt := { State.reset.filt with bq2 := ⟨f64One, f64One⟩ } } 0x3) = .next t ∧
      t.filt ≠ { State.reset.filt with bq2 := ⟨f64One, f64One⟩ }) ∧
    (∃ t, step (held { State.reset with filt := { State.reset.filt with bq2 := ⟨f64One, f64One⟩ } } 0x405) = .next t ∧
      t.filt ≠ { State.reset.filt with bq2 := ⟨f64One, f64One⟩ }) ∧
    (∃ t, step (held (avg State.reset) 0x2) = .next t ∧ t.filt ≠ (avg State.reset).filt) ∧
    (∃ t, step (issues State.reset 0x100070008 f64One) = .next t ∧ t.filt ≠ State.reset.filt) ∧
    ∃ t, step (held (avg State.reset) 0x1) = .next t ∧ t.filt ≠ (avg State.reset).filt :=
  ⟨⟨_, rfl, by rw [State.blockCycle_filt]; decide⟩, ⟨_, rfl, by decide⟩, ⟨_, rfl, by decide⟩, ⟨_, rfl, by decide⟩,
    ⟨_, rfl, by decide⟩, ⟨_, rfl, by decide⟩⟩

/-- HostCannotTouchARunningSession: a shadow write while RUNNING, and a refused one (95 M24). -/
theorem test_hyp_running_host : HostIssues (issues run0 0x100001200 f64Half) (.wr64 0x1200 f64Half) ∧
    HostIssues (issues run0 0x100000040 0x4) (.wr64 0x40 0x4) ∧
    Instr.wr64 0x40 0x4 ≠ .wr64 0x00000010 0x0000000000000001 :=
  ⟨⟨_, _, rfl, by decide⟩, ⟨_, _, rfl, by decide⟩, by decide⟩

/-- MemoryChangesOnlyWhereItIsStored: a Host write to `IN_BUF[7]` over a zero that was written before. -/
theorem test_hyp_memory_changes :
    ∃ t, step (issues (State.reset.storeWord 0x100038 f64Zero) 0x100100038 f64One) = .next t ∧
      t.memByte 0x10003F ≠ (State.reset.storeWord 0x100038 f64Zero).memByte 0x10003F := ⟨_, rfl, by decide⟩

/-- The same: PROCESS over a zero in `OUT_BUF`. -/
theorem test_hyp_memory_process : Performs avgIn (.process 2#16 false) ∧
    ∃ t, step avgIn = .next t ∧ ∃ a, t.memByte a ≠ avgIn.memByte a := by
  refine ⟨⟨.inl rfl, _, rfl, by decide⟩, ?_⟩
  obtain ⟨t, ht, hw, -⟩ := test_process_stores
  refine ⟨t, ht, ?_⟩
  by_contra hn
  have h0 : t.memWord 0x200000 = avgIn.memWord 0x200000 :=
    State.memWord_eq_of_bytes _ fun k _ => not_not.mp (not_exists.mp hn (0x200000 + k))
  have h1 : t.memWord 0x200000 = f64Half := congrArg (fun l => l.headD 0) hw
  have h2 : avgIn.memWord 0x200000 = f64Zero := by decide
  rw [h1, h2] at h0
  exact absurd h0 (by decide)

/-- A running session that has recorded one sample, its `REC_LEN` back at 0, with silence offered. -/
def quiet1 : State :=
  { State.reset.storeWord 0x1000000 f64One with
    mode := .running, blockLen := 1, offers := [{ samples := [], ovr := false, udr := false, novalid := true }] }

/-- The same: a block cycle that records silence over a one. -/
theorem test_hyp_memory_recorded : ∃ t, step quiet1 = .next t ∧ t.memByte 0x1000007 ≠ quiet1.memByte 0x1000007 :=
  ⟨_, rfl, by decide⟩

/-- ResetCommandRestoresResetValues: an offer pending at a RESET is an idle offer, dropped with no processing (R411,
R340). -/
theorem test_reset_drops_pending : (after (exec .reset { avg run0 with offers := [offer2] })).offers = [] ∧
    (after (exec .reset { avg run0 with offers := [offer2] })).consumed = [offer2] ∧
    (after (exec .reset { avg run0 with offers := [offer2] })).rendered = [] := by decide

/-- InterruptBitsAreSetByTheirEvents: each of the four bits rises: a command's end, a block cycle, the one that ends
the session, and a misaligned read, whose `ERROR` bit rises too (95 M6). -/
theorem test_hyp_interrupts :
    (∃ t, step (held State.reset 0x0) = .next t ∧ t.irqStatus.getLsbD 0 = true) ∧
    (∃ t, step quiet1 = .next t ∧ t.irqStatus.getLsbD 1 = true) ∧
    (∃ t, step { quiet1 with stopReq := true } = .next t ∧ t.irqStatus.getLsbD 2 = true) ∧
    (∃ t, step (issues State.reset 0x000000004 0) = .next t ∧ t.irqStatus.getLsbD 3 = true ∧
      t.errorReg.getLsbD (Cause.code .busMisaligned) = true) :=
  ⟨⟨_, rfl, by decide⟩, ⟨_, rfl, by decide⟩, ⟨_, rfl, by decide⟩, ⟨_, rfl, by decide⟩⟩

end Sys2Proof.Tests
end

/-!
PROOFS of the family "state": what one step can do, said once (`step_effect`), and from it the invariant and the two
whole-machine rules on `ERROR` and `ACT`; then `STATUS`, the control registers and `PEAK`.
-/

namespace Sys2Proof.Machine

/-! ### What one step can do

The commands START, STOP and FLUSH by mode, as `execProcess_running` and its like do for PROCESS. -/

theorem execStart_running (s : State) (h : s.mode = .running) :
    execStart s = .next (s.raise .alreadyRunning 0 (cmdInfo .start)).finishCommand := by
  simp only [execStart, h]

theorem execStart_idle (s : State) (h : s.mode = .idle) : execStart s = .next s.beginSession.finishCommand := by
  simp only [execStart, h]

theorem execStop_running (s : State) (h : s.mode = .running) :
    execStop s = .next (State.finishCommand { s with stopReq := true }) := by
  simp only [execStop, h]

theorem execStop_idle (s : State) (h : s.mode = .idle) :
    execStop s = .next (State.finishCommand { s with resultLen := 0 }) := by
  simp only [execStop, h]

theorem execFlush_running (mask : BitVec 5) (s : State) (h : s.mode = .running) :
    execFlush mask s = .next (s.raise .cmdState 0 (cmdInfo (.flush mask))).finishCommand := by
  simp only [execFlush, h]

theorem execFlush_idle (mask : BitVec 5) (s : State) (h : s.mode = .idle) :
    execFlush mask s = .next (State.finishCommand { s with filt := s.filt.flush s.act mask }) := by
  simp only [execFlush, h]

/-- What performing a command that is not RESET does before the slot is emptied (R175 to R182). -/
inductive CommandEffect (s : State) : Instr → State → Prop
  | nop : CommandEffect s .nop s
  | applied (hv : validate s.params s.sh = none) : CommandEffect s .commit s.applyShadow
  | rejected {f : CfgFailure} (hv : validate s.params s.sh = some f) :
      CommandEffect s .commit (s.raise .cfgInvalid f.loc f.info)
  | started (hm : s.mode = .idle) : CommandEffect s .start s.beginSession
  | startRefused (hm : s.mode = .running) : CommandEffect s .start (s.raise .alreadyRunning 0 (cmdInfo .start))
  | stopRequested (hm : s.mode = .running) : CommandEffect s .stop { s with stopReq := true }
  | resultDropped (hm : s.mode = .idle) : CommandEffect s .stop { s with resultLen := 0 }
  | flushed (mask : BitVec 5) (hm : s.mode = .idle) :
      CommandEffect s (.flush mask) { s with filt := s.filt.flush s.act mask }
  | flushRefused (mask : BitVec 5) (hm : s.mode = .running) :
      CommandEffect s (.flush mask) (s.raise .cmdState 0 (cmdInfo (.flush mask)))
  | processed (n : BitVec 16) (dyn : Bool) (hm : s.mode = .idle) (h1 : 1 ≤ n.toNat) (h2 : n.toNat ≤ s.params.nMax) :
      CommandEffect s (.process n dyn) (s.processBlock n.toNat dyn)
  | processRefused (n : BitVec 16) (dyn : Bool) (hm : s.mode = .running) :
      CommandEffect s (.process n dyn) (s.raise .cmdState 0 (cmdInfo (.process n dyn)))
  | processBadLength (n : BitVec 16) (dyn : Bool) (hm : s.mode = .idle) (hn : n.toNat < 1 ∨ s.params.nMax < n.toNat) :
      CommandEffect s (.process n dyn) (s.raise .cmdArg 0 (cmdInfo (.process n dyn)))
  | peakCleared : CommandEffect s .clrpeak { s with peak := f64Zero }

/-- A command other than RESET ends with the slot emptied, after its effect (R174). -/
theorem command_effect {i : Instr} {s t : State} (hr : i ≠ .reset) (hrd : ∀ a, i ≠ .rd64 a)
    (hwr : ∀ a d, i ≠ .wr64 a d) (h : exec i s = .next t) : ∃ u, CommandEffect s i u ∧ t = u.finishCommand := by
  cases i with
  | nop => cases h; exact ⟨s, .nop, rfl⟩
  | reset => exact absurd rfl hr
  | rd64 a => exact absurd rfl (hrd a)
  | wr64 a d => exact absurd rfl (hwr a d)
  | clrpeak => cases h; exact ⟨_, .peakCleared, rfl⟩
  | commit =>
    simp only [exec] at h
    cases hv : validate s.params s.sh with
    | none => rw [execCommit_applied s hv] at h; cases h; exact ⟨_, .applied hv, rfl⟩
    | some f => rw [execCommit_rejected s f hv] at h; cases h; exact ⟨_, .rejected hv, rfl⟩
  | start =>
    simp only [exec] at h
    cases hm : s.mode with
    | running => rw [execStart_running s hm] at h; cases h; exact ⟨_, .startRefused hm, rfl⟩
    | idle => rw [execStart_idle s hm] at h; cases h; exact ⟨_, .started hm, rfl⟩
  | stop =>
    simp only [exec] at h
    cases hm : s.mode with
    | running => rw [execStop_running s hm] at h; cases h; exact ⟨_, .stopRequested hm, rfl⟩
    | idle => rw [execStop_idle s hm] at h; cases h; exact ⟨_, .resultDropped hm, rfl⟩
  | flush mask =>
    simp only [exec] at h
    cases hm : s.mode with
    | running => rw [execFlush_running mask s hm] at h; cases h; exact ⟨_, .flushRefused mask hm, rfl⟩
    | idle => rw [execFlush_idle mask s hm] at h; cases h; exact ⟨_, .flushed mask hm, rfl⟩
  | process n dyn =>
    simp only [exec] at h
    cases hm : s.mode with
    | running => rw [execProcess_running s n dyn hm] at h; cases h; exact ⟨_, .processRefused n dyn hm, rfl⟩
    | idle =>
      by_cases hn : n.toNat < 1 ∨ s.params.nMax < n.toNat
      · rw [execProcess_badLength s n dyn hm hn] at h; cases h; exact ⟨_, .processBadLength n dyn hm hn, rfl⟩
      · have h1 : 1 ≤ n.toNat := by omega
        have h2 : n.toNat ≤ s.params.nMax := by omega
        rw [execProcess_idle s n dyn hm h1 h2] at h; cases h; exact ⟨_, .processed n dyn hm h1 h2, rfl⟩

/-- What a step that is no reset does (R114): the Engine performs a command, meets an illegal word, runs a block
cycle, drops an offer or finds nothing to do; an offer is made, which is dropped or waits; the Host reads, is refused,
or writes to an item. -/
inductive StepEffect (s : State) : State → Prop
  | performed {i : Instr} {u : State} (hp : Performs s i) (hu : CommandEffect s.popped i u) :
      StepEffect s u.finishCommand
  | illegal {v : BitVec 64} {e : DecodeError} (hm : EngineMoves s) (hs : s.slot = some v)
      (hd : decodeCmd v = .error e) : StepEffect s (s.popped.illegalCommand v)
  | cycled {o : Offer} {rest : List Offer} (h : RunsBlockCycle s o rest) :
      StepEffect s ((s.popped.consume o rest).blockCycle o)
  | offerDropped {o : Offer} {rest : List Offer} (hm : EngineMoves s) (hs : s.slot = none) (hi : s.mode = .idle)
      (ho : s.offers = o :: rest) : StepEffect s (s.popped.consume o rest)
  | engineRests (hm : EngineMoves s) (hs : s.slot = none) (ho : s.offers = []) : StepEffect s s.popped
  | offerConsumed {o : Offer} (ho : s.schedule.head? = some (.offer o)) :
      StepEffect s { s.popped with consumed := s.consumed ++ [o] }
  | offerWaits {o : Offer} (ho : s.schedule.head? = some (.offer o)) :
      StepEffect s { s.popped with offers := s.offers ++ [o] }
  | read (b : Word) : StepEffect s { s.popped with busRead := b }
  | readRefused {a : Addr} {c : Cause} (hi : HostIssues s (.rd64 a)) (ha : s.readAccess a = .refused c) :
      StepEffect s { s.popped.raise c 0 a with busRead := 0 }
  | writeRefused {a : Addr} {v : Word} {c : Cause} (hi : HostIssues s (.wr64 a v)) (ha : s.writeAccess a = .refused c) :
      StepEffect s (s.popped.raise c 0 a)
  | written {a : Addr} {v : Word} {it : Item} (hi : HostIssues s (.wr64 a v)) (hm : itemAt s.params a.toNat = some it)
      (hd : (it.readOnly || it.writeDenied s.mode) = false) (hn : it = .cmd → v ≠ 0x0000000000000001#64) :
      StepEffect s (s.popped.writeItem it v)

/-- What a reset does (R410, R411). -/
inductive ResetEffect (s : State) : State → Prop
  | soft : ResetEffect s s.popped.softReset
  | powerOn : ResetEffect s s.popped.powerOnReset

/-- A value found in an association list stands in it. -/
theorem mem_of_lookup {β : Type} {l : List (Nat × β)} {a : Nat} {b : β} (h : l.lookup a = some b) : (a, b) ∈ l := by
  obtain ⟨l₁, l₂, rfl, -⟩ := List.lookup_eq_some_iff.mp h
  simp

/-- A control register (R31 to R47), as against a configuration item, filter state or a sample memory. -/
def Item.isControl : Item → Bool
  | .shadow _ | .active _ | .delay _ _ | .bqReg _ _ | .inBuf _ | .outBuf _ | .recBuf _ => false
  | _ => true

/-- The control registers stand at the addresses of their map and nowhere else (R101). -/
theorem mem_controlMap_of_itemAt {p : Params} {a : Nat} {i : Item} (h : itemAt p a = some i)
    (hc : i.isControl = true) : (a, i) ∈ controlMap := by
  have hbq : ∀ q ∈ bqMap, q.2.isControl = false := by decide
  unfold itemAt at h
  obtain ⟨-, h⟩ | ⟨-, h⟩ := ite_eq_iff.mp h
  · exact mem_of_lookup h
  exfalso
  iterate 2
    obtain ⟨-, h⟩ | ⟨-, h⟩ := ite_eq_iff.mp h
    · obtain ⟨c, -, rfl⟩ := Option.map_eq_some_iff.mp h
      exact Bool.false_ne_true hc
  iterate 6
    obtain ⟨-, h⟩ | ⟨-, h⟩ := ite_eq_iff.mp h
    · obtain ⟨-, rfl⟩ := (element_some_iff ..).mp h
      exact Bool.false_ne_true hc
  obtain ⟨-, h⟩ | ⟨-, h⟩ := ite_eq_iff.mp h
  · exact Bool.false_ne_true ((hbq _ (mem_of_lookup h)).symm.trans hc)
  iterate 2
    obtain ⟨-, h⟩ | ⟨-, h⟩ := ite_eq_iff.mp h
    · obtain ⟨-, rfl⟩ := (element_some_iff ..).mp h
      exact Bool.false_ne_true hc
  obtain ⟨-, h⟩ | ⟨-, h⟩ := ite_eq_iff.mp h
  · cases h
  obtain ⟨-, h⟩ | ⟨-, h⟩ := ite_eq_iff.mp h
  · obtain ⟨-, rfl⟩ := (element_some_iff ..).mp h
    exact Bool.false_ne_true hc
  · cases h

/-- `CMD` stands at `0x10` only (R33). -/
theorem addr_eq_of_itemAt_cmd {p : Params} {a : Addr} (h : itemAt p a.toNat = some .cmd) : a = 0x00000010 :=
  BitVec.eq_of_toNat_eq (by simpa [controlMap] using mem_controlMap_of_itemAt h rfl)

/-- `ERROR` stands at `0x20` only (R39). -/
theorem addr_eq_of_itemAt_error {p : Params} {a : Addr} (h : itemAt p a.toNat = some .error) : a = 0x00000020 :=
  BitVec.eq_of_toNat_eq (by simpa [controlMap] using mem_controlMap_of_itemAt h rfl)

/-- A Host transaction either is no reset, or writes the RESET word to `CMD` (R173). -/
theorem host_effect {i : Instr} {s t : State} (hi : HostIssues s i) (he : exec i s.popped = .next t) :
    StepEffect s t ∨ (ResetHappens s ∧ ResetEffect s t) := by
  rcases host_cases i s t hi he with ⟨c, a, ⟨v, rfl, ha, rfl⟩ | ⟨rfl, ha, rfl⟩⟩ | ⟨b, rfl⟩ |
    ⟨a, v, it, rfl, -, hm, hd, rfl⟩
  · exact .inl (.writeRefused hi ha)
  · exact .inl (.readRefused hi ha)
  · exact .inl (.read b)
  · by_cases hw : it = .cmd ∧ v = 0x0000000000000001#64
    · obtain ⟨rfl, rfl⟩ := hw
      rw [addr_eq_of_itemAt_cmd hm] at hi
      exact .inr ⟨.inl hi, .soft⟩
    · exact .inl (.written hi hm hd fun hc hv => hw ⟨hc, hv⟩)

/-- Every step is one of the effects, or a reset. -/
theorem step_effect {s t : State} (h : step s = .next t) : StepEffect s t ∨ (ResetHappens s ∧ ResetEffect s t) := by
  rcases step_cases s t h with ⟨i, hi, he⟩ | ⟨i, hp, he⟩ | ⟨v, e, hm, hs, hd, rfl⟩ | ⟨o, rest, hr, rfl⟩ |
    ⟨o, rest, hm, hs, hi, ho, rfl⟩ | ⟨hm, hs, ho, rfl⟩ | ⟨o, ho, rfl | rfl⟩ | ⟨hp, rfl⟩
  · exact host_effect hi he
  · by_cases hr : i = .reset
    · subst hr
      cases he
      exact .inr ⟨.inr (.inl hp), .soft⟩
    · obtain ⟨-, v, -, hd⟩ := id hp
      obtain ⟨u, hu, rfl⟩ := command_effect hr (fun a ha => (decodeCmd_not_bus v a 0).1 (ha ▸ hd))
        (fun a d ha => (decodeCmd_not_bus v a d).2 (ha ▸ hd)) he
      exact .inl (.performed hp hu)
  · exact .inl (.illegal hm hs hd)
  · exact .inl (.cycled hr)
  · exact .inl (.offerDropped hm hs hi ho)
  · exact .inl (.engineRests hm hs ho)
  · exact .inl (.offerConsumed ho)
  · exact .inl (.offerWaits ho)
  · exact .inr ⟨.inr (.inr hp), .powerOn⟩

/-! ### `PEAK` over a block -/

/-- `PEAK` after one more sample (R289), as a function of the old one. -/
def peakStep (p z : F64) : F64 := if fgt (fabs z) p then fabs z else p

/-- `PEAK` after a block: its outputs noted one after the other. -/
theorem State.runBlock_peak (s : State) (dyn : Bool) (x : List F64) :
    (s.runBlock dyn x).2.peak = (s.runBlock dyn x).1.foldl peakStep s.peak :=
  finishBlock_peak _ _ _ _

/-- Noting samples leaves the old value or takes the magnitude of one of them. -/
theorem foldl_peakStep_mem (p : F64) (ys : List F64) :
    ys.foldl peakStep p = p ∨ ∃ y ∈ ys, isNaN y = false ∧ ys.foldl peakStep p = fabs y := by
  induction ys generalizing p with
  | nil => exact .inl rfl
  | cons z ys ih =>
    rw [List.foldl_cons]
    rcases ih (peakStep p z) with h | ⟨y, hy, hn, h⟩
    · rw [h, peakStep]
      split
      · rename_i hz
        exact .inr ⟨z, by simp, by simpa using ((fgt_iff _ _).mp hz).1, rfl⟩
      · exact .inl rfl
    · exact .inr ⟨y, by simp [hy], hn, h⟩

/-- A value that is a number stays one. -/
theorem isNaN_foldl_peakStep (p : F64) (ys : List F64) (hp : isNaN p = false) :
    isNaN (ys.foldl peakStep p) = false := by
  rcases foldl_peakStep_mem p ys with h | ⟨y, -, hn, h⟩
  · rw [h, hp]
  · rw [h, isNaN_fabs, hn]

/-- A magnitude keeps its sign bit clear. -/
theorem fSign_foldl_peakStep (p : F64) (ys : List F64) (hp : fSign p = false) :
    fSign (ys.foldl peakStep p) = false := by
  rcases foldl_peakStep_mem p ys with h | ⟨y, -, -, h⟩
  · rw [h, hp]
  · rw [h, fSign_fabs]

/-- One number noted: the result is a number, not below the old value and not below the sample's magnitude. -/
theorem peakStep_ge (p z : F64) (hp : isNaN p = false) :
    isNaN (peakStep p z) = false ∧ fKey p ≤ fKey (peakStep p z) ∧
      (isNaN z = false → fKey (fabs z) ≤ fKey (peakStep p z)) := by
  unfold peakStep
  split
  · rename_i hz
    obtain ⟨hn, -, hlt⟩ := (fgt_iff _ _).mp hz
    exact ⟨hn, hlt.le, fun _ => le_rfl⟩
  · rename_i hz
    exact ⟨hp, le_rfl, fun hn => not_lt.mp fun hlt => hz ((fgt_iff _ _).mpr ⟨by simpa using hn, hp, hlt⟩)⟩

/-- Neither the old value nor the magnitude of a noted number is greater than the result. -/
theorem foldl_peakStep_ge (p : F64) (ys : List F64) (hp : isNaN p = false) :
    fKey p ≤ fKey (ys.foldl peakStep p) ∧
      ∀ y ∈ ys, isNaN y = false → fKey (fabs y) ≤ fKey (ys.foldl peakStep p) := by
  induction ys generalizing p with
  | nil => simp
  | cons z ys ih =>
    obtain ⟨hn, hpz, hz⟩ := peakStep_ge p z hp
    obtain ⟨hge, hys⟩ := ih (peakStep p z) hn
    refine ⟨hpz.trans hge, fun y hy hyn => ?_⟩
    rcases List.mem_cons.mp hy with rfl | hy
    · exact (hz hyn).trans hge
    · exact hys y hy hyn

/-- A number whose place is not above another's is not greater. -/
theorem fgt_eq_false {a b : F64} (h : isNaN a = false → fKey a ≤ fKey b) : fgt a b = false := by
  by_contra hc
  obtain ⟨hn, -, hlt⟩ := (fgt_iff a b).mp (by simpa using hc)
  exact absurd (h hn) (not_le.mpr hlt)

/-- Settles O46: `PEAK` is the fold of `peakStep` over the block's outputs. -/
theorem peakIsTheLargestMagnitude : Obligations.PeakIsTheLargestMagnitude := by
  intro s dyn x hp
  rw [State.runBlock_peak]
  obtain ⟨hge, hys⟩ := foldl_peakStep_ge s.peak (s.runBlock dyn x).1 hp
  refine ⟨fun y hy => fgt_eq_false fun hn => hys y hy (by simpa using hn), ?_, fgt_eq_false fun _ => hge⟩
  exact (foldl_peakStep_mem s.peak _).imp id fun ⟨y, hy, _, h⟩ => ⟨y, hy, h⟩

/-! ### Lengths of delay lines and of coefficient lists -/

/-- COMMIT gives a delay line the length of the new tap count (R283). -/
theorem retainOrZero_length (new old : FirCfg) (dl : List F64) (h : dl.length = old.delayLen) :
    (retainOrZero new old dl).length = new.delayLen := by
  unfold retainOrZero
  split
  · exact zeros_length _
  · rename_i ht
    rw [h, FirCfg.delayLen, FirCfg.delayLen, not_not.mp ht]

/-- FLUSH keeps the lengths of the delay lines (R180). -/
theorem flush_delay_length (f : FilterState) (act : Cfg) (mask : BitVec 5)
    (h : f.dl0.length = act.fir0.delayLen ∧ f.dl1.length = act.fir1.delayLen) :
    (f.flush act mask).dl0.length = act.fir0.delayLen ∧ (f.flush act mask).dl1.length = act.fir1.delayLen := by
  simp only [FilterState.flush]
  constructor
  · split
    · exact zeros_length _
    · exact h.1
  · split
    · exact zeros_length _
    · exact h.2

/-- A write to a configuration item keeps the numbers of coefficients (R50, R186). -/
@[simp] theorem Cfg.write_fir0_length (c : Cfg) (i : CfgItem) (v : Word) :
    (c.write i v).fir0.h.length = c.fir0.h.length := by
  cases i with
  | taps st => cases st <;> rfl
  | coef st k => cases st <;> simp [Cfg.write, Cfg.setFir, Cfg.fir]
  | biquad b k => cases b <;> rfl
  | dyn d => cases d <;> rfl

@[simp] theorem Cfg.write_fir1_length (c : Cfg) (i : CfgItem) (v : Word) :
    (c.write i v).fir1.h.length = c.fir1.h.length := by
  cases i with
  | taps st => cases st <;> rfl
  | coef st k => cases st <;> simp [Cfg.write, Cfg.setFir, Cfg.fir]
  | biquad b k => cases b <;> rfl
  | dyn d => cases d <;> rfl

/-! ### The invariant at reset -/

/-- The reset configuration passes VALIDATE (R54): one tap of `1.0`, identity biquads, a ratio of `1.0`. -/
theorem validate_reset (p : Params) : validate p (Cfg.reset p) = none := by
  have hone : isFinite f64One = true := by decide
  have hfir : ∀ loc, validateFir p loc (FirCfg.reset p) = none := by
    have ht : ¬ p.tMax < 1 := by simp [Params.tMax]
    simp [validateFir, FirCfg.reset, firstNonFinite, ht, hone]
  have hbq : ∀ loc, validateBiquad loc BiquadCfg.reset = none := by
    have h : firstNonFinite 0 [f64One, f64Zero, f64Zero, f64Zero, f64Zero] = none := by decide
    simp [validateBiquad, BiquadCfg.reset, h]
  have hdyn : fgt f64One f64Zero = true ∧ isFinite f64Zero = true ∧ fge f64Zero f64Zero = true := by decide
  simp [validate, validateDyn, Cfg.reset, hfir, hbq, hone, hdyn]

/-- The value of `BLOCK_LEN` at reset (R43). -/
theorem resetBlockLen_toNat (p : Params) : (BitVec.ofNat 16 (min 1024 p.nMax)).toNat = min 1024 p.nMax := by
  rw [BitVec.toNat_ofNat]
  omega

/-- `+0.0` is a magnitude (R44). -/
theorem f64Zero_is_magnitude : isNaN f64Zero = false ∧ fSign f64Zero = false := by decide

/-- A reset configuration has `T_MAX` coefficients (R50). -/
@[simp] theorem FirCfg.reset_length (p : Params) : (FirCfg.reset p).h.length = p.tMax := by
  simp [FirCfg.reset, Params.tMax]

theorem State.Inv.resetWith (p : Params) : (State.resetWith p).Inv where
  memWf := rfl
  blockLen := by
    have hn : 1 ≤ p.nMax := by simp [Params.nMax]
    show 1 ≤ (BitVec.ofNat 16 (min 1024 p.nMax)).toNat ∧ (BitVec.ofNat 16 (min 1024 p.nMax)).toNat ≤ p.nMax
    rw [resetBlockLen_toNat]
    omega
  stopReq h := by cases h
  recLen := Nat.zero_le _
  resultLen := le_rfl
  noResult _ := rfl
  shCoefs := ⟨FirCfg.reset_length p, FirCfg.reset_length p⟩
  actCoefs := ⟨FirCfg.reset_length p, FirCfg.reset_length p⟩
  actValid := validate_reset p
  delayLen := ⟨rfl, rfl⟩
  slotNotReset h := by cases h
  peak := f64Zero_is_magnitude

/-- Settles O52: the invariant clause by clause, for every size. -/
theorem resetStateMeetsTheInvariant : Obligations.ResetStateMeetsTheInvariant :=
  ⟨State.Inv.resetWith, State.Inv.resetWith Config.params⟩

namespace State.Inv

variable {s : State}

/-- A reset restores the invariant; the memories stay as they are, which are canonical (R412). -/
theorem softReset (h : s.Inv) : s.softReset.Inv := { State.Inv.resetWith s.params with memWf := h.memWf }

theorem powerOnReset (s : State) : s.powerOnReset.Inv := { State.Inv.resetWith s.params with }

/-! ### Each operation keeps the invariant -/

theorem popped (h : s.Inv) : s.popped.Inv := { h with }

theorem raise (h : s.Inv) (c : Cause) (loc : BitVec 8) (info : BitVec 32) : (s.raise c loc info).Inv := { h with }

theorem raiseIf (h : s.Inv) (p : Bool) (c : Cause) (info : BitVec 32) : (s.raiseIf p c info).Inv := by
  unfold State.raiseIf
  split
  · exact h.raise c 0 info
  · exact h

theorem finishCommand (h : s.Inv) : s.finishCommand.Inv := { h with slotNotReset := by simp }

theorem illegalCommand (h : s.Inv) (v : BitVec 64) : (s.illegalCommand v).Inv :=
  (h.raise .cmdIllegal 0 (v.extractLsb' 0 32)).finishCommand

theorem consume (h : s.Inv) (o : Offer) (rest : List Offer) : (s.consume o rest).Inv := { h with }

theorem storeWord (h : s.Inv) (a : Nat) (v : Word) : (s.storeWord a v).Inv :=
  { h with memWf := Memory.wf_writeWord _ a v h.memWf }

theorem storeWords (h : s.Inv) (a : Nat) (vs : List Word) : (s.storeWords a vs).Inv :=
  { h with memWf := Memory.wf_writeWords _ a vs h.memWf }

/-- COMMIT of a valid shadow configuration (R283, R284): a delay line gets its new length. -/
theorem applyShadow (h : s.Inv) (hv : validate s.params s.sh = none) : s.applyShadow.Inv :=
  { h with
    actCoefs := h.shCoefs
    actValid := hv
    delayLen := ⟨retainOrZero_length _ _ _ h.delayLen.1, retainOrZero_length _ _ _ h.delayLen.2⟩ }

theorem flush (h : s.Inv) (mask : BitVec 5) : State.Inv { s with filt := s.filt.flush s.act mask } :=
  { h with delayLen := flush_delay_length _ _ mask h.delayLen }

theorem beginSession (h : s.Inv) : s.beginSession.Inv :=
  { h with
    stopReq := fun _ => rfl
    recLen := Nat.zero_le _
    resultLen := le_rfl
    noResult := fun _ => rfl
    delayLen := flush_delay_length _ _ _ h.delayLen
    peak := f64Zero_is_magnitude }

/-- A block through the chain keeps the delay lines' lengths (R55), and `PEAK` a magnitude (R44). -/
theorem runBlock (h : s.Inv) (dyn : Bool) (x : List F64) : (s.runBlock dyn x).2.Inv where
  memWf := by simpa using h.memWf
  blockLen := by simpa using h.blockLen
  stopReq := by simpa using h.stopReq
  recLen := by simpa using h.recLen
  resultLen := by simpa using h.resultLen
  noResult := by simpa using h.noResult
  shCoefs := by simpa using h.shCoefs
  actCoefs := by simpa using h.actCoefs
  actValid := by simpa using h.actValid
  delayLen := by simpa using chainBlock_delay_length s.act s.filt x h.delayLen
  slotNotReset := by simpa using h.slotNotReset
  peak := by
    rw [State.runBlock_peak]
    exact ⟨isNaN_foldl_peakStep _ _ h.peak.1, fSign_foldl_peakStep _ _ h.peak.2⟩

theorem countBlock (h : s.Inv) (n : BitVec 64) : State.Inv { s with blkCnt := n } := { h with }

theorem processBlock (h : s.Inv) (n : Nat) (dyn : Bool) : (s.processBlock n dyn).Inv := by
  unfold State.processBlock
  exact ((h.runBlock dyn _).storeWords outBase _).countBlock _

/-- Recording appends up to the capacity (R45), so the result stays part of the recording (R46). -/
theorem record (h : s.Inv) (y : List F64) : (s.record y).Inv where
  memWf := by
    rw [State.record_mem]
    exact recordLoop_mem_wf s 0 none y h.memWf
  blockLen := by simpa using h.blockLen
  stopReq := by simpa using h.stopReq
  recLen := by
    rw [State.record_recLen, recordLoop_recLen s 0 none y h.recLen, State.record_params]
    omega
  resultLen := by
    have hr := h.recLen
    have hl := h.resultLen
    rw [State.record_recLen, recordLoop_recLen s 0 none y hr, State.record_resultLen]
    omega
  noResult := by simpa using h.noResult
  shCoefs := by simpa using h.shCoefs
  actCoefs := by simpa using h.actCoefs
  actValid := by simpa using h.actValid
  delayLen := by simpa using h.delayLen
  slotNotReset := by simpa using h.slotNotReset
  peak := by simpa using h.peak

/-- The observed stop ends the session with the recording as its result (R337). -/
theorem observeStop (h : s.Inv) : s.observeStop.Inv := by
  unfold State.observeStop
  split
  · exact { h with stopReq := nofun, resultLen := le_rfl, noResult := nofun }
  · exact h

theorem noteOfferFlags (h : s.Inv) (o : Offer) : (s.noteOfferFlags o).Inv :=
  ((h.raiseIf _ _ _).raiseIf _ _ _).raiseIf _ _ _

theorem blockCycle (h : s.Inv) (o : Offer) : (s.blockCycle o).Inv := by
  have hrun := (h.noteOfferFlags o).runBlock true (s.offerSamples o)
  generalize hr : (s.noteOfferFlags o).runBlock true (s.offerSamples o) = r at hrun
  have hrec : ((r.2.render r.1).record r.1).Inv := record (s := r.2.render r.1) { hrun with } r.1
  unfold State.blockCycle
  rw [hr]
  exact observeStop { hrec with }

/-! ### The Host's writes -/

theorem writeCmd (h : s.Inv) (v : Word) : (s.writeCmd v).Inv := by
  unfold State.writeCmd
  split
  · exact h.softReset
  split
  · exact h.raise .cmdBusy 0 _
  · rename_i hv _
    exact { h with slotNotReset := by simpa using hv }

theorem writeBlockLen (h : s.Inv) (v : Word) : (s.writeBlockLen v).Inv := by
  simp only [State.writeBlockLen]
  split
  · rename_i hn
    exact { h with blockLen := hn }
  · exact h.raise .regValue 0 _

theorem writeShadow (h : s.Inv) (c : CfgItem) (v : Word) : State.Inv { s with sh := s.sh.write c v } :=
  { h with shCoefs := by simpa using h.shCoefs }

theorem writeDelay (h : s.Inv) (st : FirStage) (k : Nat) (v : Word) : (s.writeDelay st k v).Inv := by
  unfold State.writeDelay
  split
  · exact { h with delayLen := by cases st <;> simpa [FilterState.setDl, FilterState.dl] using h.delayLen }
  · exact h

theorem writeItem (h : s.Inv) (it : Item) (v : Word) : (s.writeItem it v).Inv := by
  cases it with
  | cmd => exact h.writeCmd v
  | error => exact { h with }
  | irqStatus => exact { h with }
  | irqEn => exact { h with }
  | blockLen => exact h.writeBlockLen v
  | shadow c => exact h.writeShadow c v
  | delay st k => exact h.writeDelay st k v
  | bqReg b r => exact { h with delayLen := by cases b <;> exact h.delayLen }
  | inBuf i => exact h.storeWord _ v
  | id | param | status | errCause | recLen | resultLen | peak | blkCnt => exact h
  | active _ | outBuf _ | recBuf _ => exact h

/-! ### Every step keeps the invariant -/

theorem of_commandEffect (h : s.Inv) {i : Instr} {u : State} (hu : CommandEffect s i u) : u.Inv := by
  cases hu with
  | nop => exact h
  | applied hv => exact h.applyShadow hv
  | started => exact h.beginSession
  | stopRequested hm => exact { h with stopReq := fun _ => hm }
  | resultDropped => exact { h with resultLen := Nat.zero_le _, noResult := fun _ => rfl }
  | flushed mask => exact h.flush mask
  | processed n dyn => exact h.processBlock n.toNat dyn
  | peakCleared => exact { h with peak := f64Zero_is_magnitude }
  | rejected | startRefused | flushRefused | processRefused | processBadLength => exact h.raise _ _ _

theorem of_stepEffect (h : s.Inv) {t : State} (ht : StepEffect s t) : t.Inv := by
  cases ht with
  | performed _ hu => exact (h.popped.of_commandEffect hu).finishCommand
  | illegal => exact h.popped.illegalCommand _
  | cycled => exact (h.popped.consume _ _).blockCycle _
  | offerDropped => exact h.popped.consume _ _
  | engineRests => exact h.popped
  | offerConsumed | offerWaits | read => exact { h.popped with }
  | @readRefused a c => exact { h.popped.raise c 0 a with }
  | writeRefused => exact h.popped.raise _ _ _
  | written => exact h.popped.writeItem _ _

end State.Inv

/-- Settles O53: each effect of a step keeps the invariant, and a reset restores it. -/
theorem everyStepKeepsTheInvariant : Obligations.EveryStepKeepsTheInvariant := by
  intro s t h hs
  rcases step_effect hs with ht | ⟨-, ht⟩
  · exact h.of_stepEffect ht
  · cases ht with
    | soft => exact h.popped.softReset
    | powerOn => exact State.Inv.powerOnReset s.popped

/-! ### Who clears an error bit -/

/-- A block through the chain only raises errors (R289). -/
theorem State.runBlock_keeps_error (s : State) (dyn : Bool) (x : List F64) (n : Nat)
    (hn : s.error.getLsbD n = true) : (s.runBlock dyn x).2.error.getLsbD n = true := by
  unfold State.runBlock
  exact finishBlock_keeps_error _ _ _ _ n hn

@[simp] theorem State.processBlock_error (s : State) (n : Nat) (dyn : Bool) :
    (s.processBlock n dyn).error = (s.runBlock dyn (s.memWords inBase n)).2.error := by simp [State.processBlock]

/-- The effect of a performed command clears no error bit (R373). -/
theorem CommandEffect.keeps_error {s u : State} {i : Instr} (hu : CommandEffect s i u) (n : Nat)
    (hn : s.error.getLsbD n = true) : u.error.getLsbD n = true := by
  cases hu with
  | processed m dyn =>
    rw [State.processBlock_error]
    exact s.runBlock_keeps_error dyn _ n hn
  | rejected | startRefused | flushRefused | processRefused | processBadLength => exact s.raise_keeps_error _ _ _ n hn
  | nop | applied | started | stopRequested | resultDropped | flushed | peakCleared => exact hn

/-- A block cycle only raises errors (R333). -/
theorem State.blockCycle_keeps_error (s : State) (o : Offer) (n : Nat) (hn : s.error.getLsbD n = true) :
    (s.blockCycle o).error.getLsbD n = true := by
  obtain ⟨w, hw, he, -⟩ := s.blockCycle_raises (P := fun _ => True) o (fun _ => trivial) (fun _ => trivial)
    (fun _ => trivial) trivial trivial (fun _ => trivial)
  rw [he]
  exact hw.keeps n hn

/-- A permitted write that is no reset keeps an error bit, unless it is `ERROR`'s with a one in its place (R183). -/
theorem State.writeItem_keeps_error (s : State) (it : Item) (v : Word) (n : Nat)
    (hc : it = .cmd → v ≠ 0x0000000000000001#64) (hn : s.error.getLsbD n = true) :
    (s.writeItem it v).error.getLsbD n = true ∨ (it = .error ∧ v.getLsbD (n + 1) = true) := by
  cases it with
  | error =>
    have hlt : n < 16 := BitVec.lt_of_getLsbD hn
    cases hv : v.getLsbD (n + 1) <;> simp [State.writeItem, hn, hlt, hv, Nat.add_comm 1 n]
  | cmd =>
    left
    simp only [State.writeItem, State.writeCmd, if_neg (hc rfl)]
    split
    · exact s.raise_keeps_error _ _ _ n hn
    · exact hn
  | blockLen =>
    left
    simp only [State.writeItem, State.writeBlockLen]
    split
    · exact hn
    · exact s.raise_keeps_error _ _ _ n hn
  | delay st k =>
    left
    simp only [State.writeItem, State.writeDelay]
    split <;> exact hn
  | _ => exact .inl hn

/-- A step that is no reset keeps an error bit, unless the Host writes a one in its place to `ERROR`. -/
theorem StepEffect.keeps_error {s t : State} (he : StepEffect s t) (n : Nat) (hn : s.error.getLsbD n = true) :
    t.error.getLsbD n = true ∨ ∃ v : Word, HostIssues s (.wr64 0x00000020 v) ∧ v.getLsbD (n + 1) = true := by
  cases he with
  | performed _ hu => exact .inl (hu.keeps_error n hn)
  | @illegal v => exact .inl (s.popped.raise_keeps_error .cmdIllegal 0 (v.extractLsb' 0 32) n hn)
  | cycled => exact .inl (State.blockCycle_keeps_error _ _ n hn)
  | offerDropped | engineRests | offerConsumed | offerWaits | read => exact .inl hn
  | @readRefused a c | @writeRefused a _ c => exact .inl (s.popped.raise_keeps_error c 0 a n hn)
  | written hi hm _ hc =>
    rcases s.popped.writeItem_keeps_error _ _ n hc hn with ht | ⟨rfl, hv⟩
    · exact .inl ht
    · rw [addr_eq_of_itemAt_error hm] at hi
      exact .inr ⟨_, hi, hv⟩

/-- Settles O15: no step but a reset or a write to `ERROR` clears an error bit. -/
theorem errorBitsStayUntilTheHostClearsThem : Obligations.ErrorBitsStayUntilTheHostClearsThem := by
  intro s t n hs hn ht
  rcases step_effect hs with he | ⟨hr, -⟩
  · exact .inl ((he.keeps_error n hn).resolve_left (by simp [ht]))
  · exact .inr hr

/-! ### Who changes the active configuration -/

/-- A performed command leaves `ACT` alone, unless it is a COMMIT of a valid shadow configuration (R177). -/
theorem CommandEffect.act_eq {s u : State} {i : Instr} (hu : CommandEffect s i u) :
    u.act = s.act ∨ (i = .commit ∧ validate s.params s.sh = none ∧ u.act = s.sh) := by
  cases hu with
  | applied hv => exact .inr ⟨rfl, hv, rfl⟩
  | processed n dyn => exact .inl (s.processBlock_act n.toNat dyn)
  | nop | started | stopRequested | resultDropped | flushed | peakCleared => exact .inl rfl
  | rejected | startRefused | flushRefused | processRefused | processBadLength => exact .inl rfl

/-- A permitted write that is no reset leaves `ACT` alone (R112). -/
theorem State.writeItem_act (s : State) (it : Item) (v : Word) (hc : it = .cmd → v ≠ 0x0000000000000001#64) :
    (s.writeItem it v).act = s.act := by
  cases it with
  | cmd =>
    simp only [State.writeItem, State.writeCmd, if_neg (hc rfl)]
    split <;> rfl
  | blockLen =>
    simp only [State.writeItem, State.writeBlockLen]
    split <;> rfl
  | delay st k =>
    simp only [State.writeItem, State.writeDelay]
    split <;> rfl
  | _ => rfl

/-- Settles O55: only `State.applyShadow` and a reset write `ACT`. -/
theorem activeConfigurationChangesOnlyByCommit : Obligations.ActiveConfigurationChangesOnlyByCommit := by
  intro s t hs hne
  rcases step_effect hs with he | ⟨hr, -⟩
  · left
    cases he with
    | performed hp hu =>
      rcases hu.act_eq with ha | ⟨rfl, hv, ha⟩
      · exact absurd ha hne
      · exact ⟨hp, hv, ha⟩
    | cycled => exact absurd (State.blockCycle_act _ _) hne
    | written _ _ _ hc => exact absurd (s.popped.writeItem_act _ _ hc) hne
    | illegal | offerDropped | engineRests | offerConsumed | offerWaits => exact absurd rfl hne
    | read | readRefused | writeRefused => exact absurd rfl hne
  · exact .inr hr

/-! ### `STATUS` and the control registers -/

/-- The bits of `STATUS` from the top field down (R34). -/
theorem State.statusReg_getLsbD (s : State) (k : Nat) :
    s.statusReg.getLsbD k =
      if k = 0 then s.mode == .running else if k = 1 then s.stopReq else if k = 2 then s.slot.isSome
      else if k = 3 then s.irqLine else false := by
  simp only [State.statusReg, BitVec.getLsbD_append]
  match k with
  | 0 | 1 | 2 | 3 | j + 4 => simp

/-- Settles O14, bit by bit from `State.statusReg_getLsbD`. -/
theorem statusShowsModeStopSlotAndLine : Obligations.StatusShowsModeStopSlotAndLine := by
  intro s
  simp only [State.statusReg_getLsbD]
  refine ⟨rfl, rfl, rfl, ?_, fun k hk => ?_⟩
  · exact Bool.eq_iff_iff.mpr (by simp [State.irqLine])
  · simp [show k ≠ 0 ∧ k ≠ 1 ∧ k ≠ 2 ∧ k ≠ 3 by omega]

/-- No mode refuses a read of a control register (R111). -/
theorem Item.readDenied_of_isControl {i : Item} (h : i.isControl = true) (m : Mode) : i.readDenied m = false := by
  cases i with
  | delay _ _ | bqReg _ _ | recBuf _ => cases h
  | _ => rfl

/-- A control register is mapped at its address, aligned and readable in every mode (R101, R111). -/
theorem State.readAccess_control (s : State) (a : Addr) (i : Item) (h : (a.toNat, i) ∈ controlMap) :
    s.readAccess a = .granted i := by
  have hmap : ∀ q ∈ controlMap,
      q.1 < 0x1000 ∧ q.1 % 8 = 0 ∧ controlMap.lookup q.1 = some q.2 ∧ q.2.isControl = true := by decide
  obtain ⟨hpage, halign, hlook, hc⟩ := hmap _ h
  have hitem : itemAt s.params a.toNat = some i := (if_pos hpage).trans hlook
  exact access_granted _ _ a i (BitVec.eq_of_toNat_eq (by simpa using halign)) hitem (Item.readDenied_of_isControl hc _)

/-- A read of a control register returns its value, in either mode (R171). -/
theorem exec_rd64_control (s : State) (a : Addr) (i : Item) (h : (a.toNat, i) ∈ controlMap) :
    exec (.rd64 a) s = .next { s with busRead := s.readItem i } := by
  simp only [exec, execRd64, s.readAccess_control a i h]

/-- A field read with zeros above it is the zero-extended field (R113). -/
theorem zero_append_eq_zeroExtend {w : Nat} (n : Nat) (x : BitVec w) : 0#n ++ x = x.zeroExtend (n + w) := by
  apply BitVec.eq_of_toNat_eq
  simp [Nat.mod_eq_of_lt (x.isLt.trans_le (Nat.pow_le_pow_right (by omega) (Nat.le_add_left w n)))]

/-- Settles O30: each register by its address, its value by `State.readItem`. -/
theorem controlRegistersReadAsTheirRulesSay : Obligations.ControlRegistersReadAsTheirRulesSay := by
  intro s
  simp only [← zero_append_eq_zeroExtend 60 s.irqStatus, ← zero_append_eq_zeroExtend 60 s.irqEn,
    ← zero_append_eq_zeroExtend 48 s.blockLen, ← zero_append_eq_zeroExtend 42 s.recLen,
    ← zero_append_eq_zeroExtend 42 s.resultLen]
  exact ⟨exec_rd64_control s _ .id (by decide), exec_rd64_control s _ .param (by decide),
    exec_rd64_control s _ .cmd (by decide), exec_rd64_control s _ .status (by decide),
    exec_rd64_control s _ .error (by decide), exec_rd64_control s _ .errCause (by decide),
    exec_rd64_control s _ .irqStatus (by decide), exec_rd64_control s _ .irqEn (by decide),
    exec_rd64_control s _ .blockLen (by decide), exec_rd64_control s _ .recLen (by decide),
    exec_rd64_control s _ .resultLen (by decide), exec_rd64_control s _ .peak (by decide),
    exec_rd64_control s _ .blkCnt (by decide)⟩

end Sys2Proof.Machine

/-!
PROOFS of the family "memory": the address map both ways, the three refusals of a Host transaction, and what each
agent's step leaves alone: a held command the offers, the datapath the shadow configuration, the Host a running
session.
-/

namespace Sys2Proof.Machine

/-! ### The address map (R101 to R103) -/

/-- The legal sizes keep each window below the base of the next (R8 to R10, R101). -/
theorem params_bounds (p : Params) : p.tMax ≤ 8192 ∧ p.nMax ≤ 65535 ∧ p.recCap ≤ 2097152 := by
  have ht := p.tMaxPred.isLt
  have hn := p.nMaxPred.isLt
  have hr := p.recMax.isLt
  simp only [Params.tMax, Params.nMax, Params.recCap]
  omega

/-- An element's address leads to the element (R102). -/
theorem element_at {base bound k : Nat} (f : Nat → Item) (h : k < bound) :
    element base bound (base + 8 * k) f = some (f k) := by
  have hk : (base + 8 * k - base) / 8 = k := by omega
  rw [element, hk, if_pos h]

/-- The element an aligned address names has that address (R102). -/
theorem base_add_index {base a : Nat} (hlo : ¬ a < base) (hb : base % 8 = 0) (ha : a % 8 = 0) :
    base + 8 * ((a - base) / 8) = a := by omega

/-- Every item that exists is mapped at its address. -/
theorem itemAt_addr (p : Params) : ∀ i : Item, i.exists_ p → itemAt p i.addr = some i
  | .shadow (.coef .lpf k), h | .shadow (.coef .hpf k), h | .active (.coef .lpf k), h | .active (.coef .hpf k), h
  | .delay .lpf k, h | .delay .hpf k, h | .inBuf k, h | .outBuf k, h | .recBuf k, h => by
    obtain ⟨ht, hn, hr⟩ := params_bounds p
    simp only [Item.exists_] at h
    simp only [Item.addr, CfgItem.addr]
    unfold itemAt
    repeat rw [if_neg (by omega)]
    rw [if_pos (by omega)]
    exact element_at _ h
  | .shadow (.taps st), _ | .active (.taps st), _ => by cases st <;> rfl
  | .shadow (.biquad b c), _ | .active (.biquad b c), _ => by cases b <;> cases c <;> rfl
  | .shadow (.dyn d), _ | .active (.dyn d), _ => by cases d <;> rfl
  | .bqReg b r, _ => by cases b <;> cases r <;> rfl
  | .id, _ | .param, _ | .cmd, _ | .status, _ | .error, _ | .errCause, _ | .irqStatus, _ | .irqEn, _
  | .blockLen, _ | .recLen, _ | .resultLen, _ | .peak, _ | .blkCnt, _ => rfl

/-- The registers of the control page exist and stand at their addresses (R31 to R47). -/
theorem controlMap_entry (p : Params) : ∀ q ∈ controlMap, q.2.exists_ p ∧ q.2.addr = q.1 := by
  simp [controlMap, Item.exists_, Item.addr]

/-- The configuration registers exist on both pages and stand at their offsets (R49 to R53). -/
theorem configMap_entry (p : Params) (page win0 win1 : Nat) :
    ∀ q ∈ configMap, (Item.shadow q.2).exists_ p ∧ (Item.active q.2).exists_ p ∧
      q.2.addr page win0 win1 = page + q.1 := by
  simp [configMap, Item.exists_, CfgItem.addr, Nat.add_assoc]

/-- The biquad delay registers exist and stand at their offsets (R57). -/
theorem bqMap_entry (p : Params) : ∀ q ∈ bqMap, q.2.exists_ p ∧ q.2.addr = 0x70000 + q.1 := by
  simp [bqMap, Item.exists_, Item.addr]

/-- The item an aligned address is mapped to exists and has that address: the regions of R101 in order. -/
theorem exists_and_addr_of_itemAt {p : Params} {a : Nat} {i : Item} (ha : a % 8 = 0) (h : itemAt p a = some i) :
    i.exists_ p ∧ i.addr = a := by
  unfold itemAt at h
  obtain ⟨-, h⟩ | ⟨hlo, h⟩ := ite_eq_iff.mp h
  · exact controlMap_entry p _ (mem_of_lookup h)
  iterate 2
    obtain ⟨-, h⟩ | ⟨hlo, h⟩ := ite_eq_iff.mp h
    · obtain ⟨c, hc, rfl⟩ := Option.map_eq_some_iff.mp h
      obtain ⟨hsh, hact, haddr⟩ := configMap_entry p _ _ _ _ (mem_of_lookup hc)
      exact ⟨by assumption, haddr.trans (by omega)⟩
  iterate 6
    obtain ⟨-, h⟩ | ⟨hlo, h⟩ := ite_eq_iff.mp h
    · obtain ⟨hk, rfl⟩ := (element_some_iff ..).mp h
      exact ⟨hk, base_add_index hlo rfl ha⟩
  obtain ⟨-, h⟩ | ⟨hlo, h⟩ := ite_eq_iff.mp h
  · obtain ⟨hex, haddr⟩ := bqMap_entry p _ (mem_of_lookup h)
    exact ⟨hex, haddr.trans (by omega)⟩
  iterate 2
    obtain ⟨-, h⟩ | ⟨hlo, h⟩ := ite_eq_iff.mp h
    · obtain ⟨hk, rfl⟩ := (element_some_iff ..).mp h
      exact ⟨hk, base_add_index hlo rfl ha⟩
  obtain ⟨-, h⟩ | ⟨hlo, h⟩ := ite_eq_iff.mp h
  · cases h
  obtain ⟨-, h⟩ | ⟨-, h⟩ := ite_eq_iff.mp h
  · obtain ⟨hk, rfl⟩ := (element_some_iff ..).mp h
    exact ⟨hk, base_add_index hlo rfl ha⟩
  · cases h

/-- Settles O25: each item is found at its address, and what an address names has that address. -/
theorem addressMapIsTheTable : Obligations.AddressMapIsTheTable := by
  intro p a i ha
  constructor
  · exact exists_and_addr_of_itemAt ha
  · rintro ⟨hex, rfl⟩
    exact itemAt_addr p i hex

/-! ### Refused transactions (R104, R107, R111, R112) -/

/-- A refused read returns 0 and records its cause with the address (R171). -/
theorem exec_rd64_refused {s : State} {a : Addr} {c : Cause} (h : s.readAccess a = .refused c) :
    exec (.rd64 a) s = .next { s.raise c 0 a with busRead := 0 } := by
  simp only [exec, execRd64, h]

/-- A refused write changes nothing but the error record (R172). -/
theorem exec_wr64_refused {s : State} {a : Addr} {c : Cause} (h : s.writeAccess a = .refused c) (v : Word) :
    exec (.wr64 a v) s = .next (s.raise c 0 a) := by
  simp only [exec, execWr64, h]

/-- The low three bits of an address are those of its byte offset within an element (R107). -/
theorem low_bits_eq_zero_iff (a : Addr) : a.extractLsb' 0 3 = 0 ↔ a.toNat % 8 = 0 := by
  rw [← BitVec.toNat_inj, BitVec.extractLsb'_toNat]
  simp

/-- Configuration items stand at aligned addresses, on aligned pages and in aligned windows (R102). -/
theorem CfgItem.addr_mod (c : CfgItem) {page win0 win1 : Nat} (hp : page % 8 = 0) (h0 : win0 % 8 = 0)
    (h1 : win1 % 8 = 0) : c.addr page win0 win1 % 8 = 0 := by
  cases c with
  | taps st => cases st <;> simp only [CfgItem.addr] <;> omega
  | coef st k => cases st <;> simp only [CfgItem.addr] <;> omega
  | biquad b r => cases b <;> cases r <;> simp only [CfgItem.addr] <;> omega
  | dyn d => cases d <;> simp only [CfgItem.addr] <;> omega

/-- Items stand at aligned addresses (R102). -/
theorem Item.addr_mod (i : Item) : i.addr % 8 = 0 := by
  cases i with
  | shadow c | active c => exact c.addr_mod rfl rfl rfl
  | delay st k => cases st <;> simp only [Item.addr] <;> omega
  | bqReg b r => cases b <;> cases r <;> rfl
  | inBuf k | outBuf k | recBuf k => simp only [Item.addr]; omega
  | _ => rfl

/-- The model's test for reads is the table of R111. -/
theorem Item.readDenied_eq_true_iff (i : Item) (m : Mode) : i.readDenied m = true ↔ ¬ mayRead m i := by
  cases i with
  | delay _ _ | bqReg _ _ | recBuf _ => cases m <;> simp [Item.readDenied, mayRead]
  | _ => simp [Item.readDenied, mayRead]

/-- The model's two tests for writes are the tables of R111 and R112. -/
theorem Item.not_mayWrite_iff (i : Item) (m : Mode) :
    (i.readOnly || i.writeDenied m) = true ↔ ¬ mayWrite m i := by
  cases i with
  | blockLen | delay _ _ | bqReg _ _ => cases m <;> simp [Item.readOnly, Item.writeDenied, mayWrite]
  | _ => simp [Item.readOnly, Item.writeDenied, mayWrite]

/-- Settles O26: alignment is tested first, for reads and writes alike. -/
theorem misalignedTransactionIsRecorded : Obligations.MisalignedTransactionIsRecorded := by
  intro s a v ha
  have hlow : a.extractLsb' 0 3 ≠ 0 := mt (low_bits_eq_zero_iff a).mp ha
  exact ⟨exec_rd64_refused (access_misaligned _ _ a hlow), exec_wr64_refused (access_misaligned _ _ a hlow) v⟩

/-- Settles O27: an address of no existing item is mapped to none, by the address table of O25. -/
theorem unmappedTransactionIsRecorded : Obligations.UnmappedTransactionIsRecorded := by
  intro s a v ha hun
  have hlow : a.extractLsb' 0 3 = 0 := (low_bits_eq_zero_iff a).mpr ha
  have hnone : itemAt s.params a.toNat = none := by
    refine Option.eq_none_iff_forall_ne_some.mpr fun i hi => ?_
    obtain ⟨hex, haddr⟩ := exists_and_addr_of_itemAt ha hi
    exact hun i hex haddr
  exact ⟨exec_rd64_refused (access_unmapped _ _ a hlow hnone),
    exec_wr64_refused (access_unmapped _ _ a hlow hnone) v⟩

/-- Settles O28: the item is reached by the address table, and the table of R111 refuses it. -/
theorem deniedTransactionIsRecorded : Obligations.DeniedTransactionIsRecorded := by
  intro s i a v hex haddr
  have hlow : a.extractLsb' 0 3 = 0 := (low_bits_eq_zero_iff a).mpr (haddr ▸ i.addr_mod)
  have hitem : itemAt s.params a.toNat = some i := haddr ▸ itemAt_addr s.params i hex
  refine ⟨fun hr => exec_rd64_refused ?_, fun hw => exec_wr64_refused ?_ v⟩
  · exact access_denied _ _ a i hlow hitem ((i.readDenied_eq_true_iff s.mode).mpr hr)
  · exact access_denied _ _ a i hlow hitem ((i.not_mayWrite_iff s.mode).mpr hw)

/-! ### Steps of the Host and of the Engine -/

/-- Settles O7: the event at the head of the schedule is the transaction's. -/
theorem stepIssuesTheHostTransaction : Obligations.StepIssuesTheHostTransaction := by
  rintro s i ⟨header, data, hhead, rfl⟩
  obtain ⟨rest, hs⟩ := List.head?_eq_some_iff.mp hhead
  rw [step_host s header data rest hs, State.popped, hs]
  rfl

/-- RESET has one word (R144, R145). -/
theorem eq_resetWord_of_decodeCmd {v : BitVec 64} (h : decodeCmd v = .ok .reset) : v = 0x0000000000000001#64 := by
  obtain ⟨hhigh, ⟨op, j, hmem, hop, hp⟩ | ⟨-, hf⟩ | ⟨-, hp⟩⟩ := decodeCmd_ok v _ h
  · obtain ⟨ha8, ha16, rfl⟩ := decodePlain_ok v j _ hp
    have hop1 : op = 0x01#8 := by simpa using hmem
    rw [← cmdWord_fields v hhigh, hop, hop1, ha8, ha16]
    rfl
  · cases (decodeFlush_ok v _ hf).2.2
  · cases (decodeProcess_ok v _ hp).2

/-- The effect of a performed command renders nothing and consumes no offer (R174). -/
theorem CommandEffect.offers_and_rendered {s u : State} {i : Instr} (hu : CommandEffect s i u) :
    u.rendered = s.rendered ∧ u.offers = s.offers ∧ u.consumed = s.consumed := by
  cases hu with
  | processed n dyn => simp
  | nop | applied | started | stopRequested | resultDropped | flushed | peakCleared => exact ⟨rfl, rfl, rfl⟩
  | rejected | startRefused | flushRefused | processRefused | processBadLength => exact ⟨rfl, rfl, rfl⟩

/-- Settles O8: with the slot full the Engine's step is `commandStep`, which ends a command or resets. -/
theorem heldCommandComesBeforeABlockCycle : Obligations.HeldCommandComesBeforeABlockCycle := by
  intro s v hm hs
  rw [step_moves s hm]
  cases hd : decodeCmd v with
  | error e => exact ⟨_, engineStep_illegal s.popped v e hs hd, rfl, rfl, fun _ => ⟨rfl, rfl⟩⟩
  | ok i =>
    obtain ⟨t, ht⟩ := exec_next i s.popped
    refine ⟨t, (engineStep_command s.popped v i hs hd).trans ht, ?_⟩
    by_cases hr : i = .reset
    · subst hr
      cases ht
      exact ⟨rfl, rfl, fun hv => absurd (eq_resetWord_of_decodeCmd hd) hv⟩
    · obtain ⟨u, hu, rfl⟩ := command_effect hr (fun a ha => (decodeCmd_not_bus v a 0).1 (ha ▸ hd))
        (fun a d ha => (decodeCmd_not_bus v a d).2 (ha ▸ hd)) ht
      obtain ⟨hren, hoff, hcon⟩ := hu.offers_and_rendered
      exact ⟨rfl, hren, fun _ => ⟨hoff, hcon⟩⟩

/-! ### The datapath and the shadow configuration (R115, R120) -/

/-- The state with another shadow configuration (R120). -/
def State.withSh (s : State) (c : Cfg) : State := { s with sh := c }

@[simp] theorem State.withSh_params (s : State) (c : Cfg) : (s.withSh c).params = s.params := rfl
@[simp] theorem State.withSh_stopReq (s : State) (c : Cfg) : (s.withSh c).stopReq = s.stopReq := rfl
@[simp] theorem State.withSh_peak (s : State) (c : Cfg) : (s.withSh c).peak = s.peak := rfl
@[simp] theorem State.withSh_recLen (s : State) (c : Cfg) : (s.withSh c).recLen = s.recLen := rfl
@[simp] theorem State.withSh_act (s : State) (c : Cfg) : (s.withSh c).act = s.act := rfl

/-! Each operation of the datapath commutes with a change of the shadow configuration. -/

theorem State.raiseIf_withSh (s : State) (c : Cfg) (p : Bool) (k : Cause) (info : BitVec 32) :
    (s.withSh c).raiseIf p k info = (s.raiseIf p k info).withSh c := by
  cases p <;> rfl

theorem State.notePeak_withSh (s : State) (c : Cfg) (y : F64) :
    (s.withSh c).notePeak y = (s.notePeak y).withSh c :=
  Eq.symm (apply_ite (State.withSh · c) (fgt (fabs y) s.peak = true) _ s)

theorem finishSample_withSh (s : State) (c : Cfg) (dyn : Bool) (i : Nat) (y : F64) :
    finishSample (s.withSh c) dyn i y = ((finishSample s dyn i y).1, (finishSample s dyn i y).2.withSh c) := by
  simp only [finishSample, State.withSh_act, State.raiseIf_withSh, State.notePeak_withSh]

theorem finishBlock_withSh (s : State) (c : Cfg) (dyn : Bool) (i : Nat) (y : List F64) :
    finishBlock (s.withSh c) dyn i y = ((finishBlock s dyn i y).1, (finishBlock s dyn i y).2.withSh c) := by
  induction y generalizing s i with
  | nil => rfl
  | cons a y ih => simp only [finishBlock, finishSample_withSh, ih]

theorem State.runBlock_withSh (s : State) (c : Cfg) (dyn : Bool) (x : List F64) :
    (s.withSh c).runBlock dyn x = ((s.runBlock dyn x).1, (s.runBlock dyn x).2.withSh c) :=
  finishBlock_withSh { s with filt := (chainBlock s.act s.filt x).2 } c dyn 0 _

theorem State.processBlock_withSh (s : State) (c : Cfg) (n : Nat) (dyn : Bool) :
    (s.withSh c).processBlock n dyn = (s.processBlock n dyn).withSh c := by
  have hin : (s.withSh c).memWords inBase n = s.memWords inBase n :=
    State.memWords_congr (s := s.withSh c) (t := s) rfl rfl _ _
  simp only [State.processBlock, hin, State.runBlock_withSh]
  rfl

theorem recordLoop_withSh (s : State) (c : Cfg) (i : Nat) (d : Option Nat) (y : List F64) :
    recordLoop (s.withSh c) i d y = ((recordLoop s i d y).1.withSh c, (recordLoop s i d y).2) := by
  induction y generalizing s i d with
  | nil => rfl
  | cons a y ih =>
    have hrec : (s.withSh c).recordSample a = (s.recordSample a).withSh c := rfl
    simp only [recordLoop, State.withSh_recLen, State.withSh_params, hrec, ih]
    split <;> rfl

theorem State.record_withSh (s : State) (c : Cfg) (y : List F64) : (s.withSh c).record y = (s.record y).withSh c := by
  simp only [State.record_eq, recordLoop_withSh]
  split <;> rfl

theorem State.observeStop_withSh (s : State) (c : Cfg) : (s.withSh c).observeStop = s.observeStop.withSh c :=
  Eq.symm (apply_ite (State.withSh · c) (s.stopReq = true) _ s)

theorem State.noteOfferFlags_withSh (s : State) (c : Cfg) (o : Offer) :
    (s.withSh c).noteOfferFlags o = (s.noteOfferFlags o).withSh c := by
  simp only [State.noteOfferFlags, State.raiseIf_withSh]

theorem State.blockCycle_withSh (s : State) (c : Cfg) (o : Offer) :
    (s.withSh c).blockCycle o = (s.blockCycle o).withSh c := by
  have hx : (s.withSh c).offerSamples o = s.offerSamples o := rfl
  simp only [State.blockCycle, hx, State.noteOfferFlags_withSh, State.runBlock_withSh]
  generalize (s.noteOfferFlags o).runBlock true (s.offerSamples o) = r
  have hrec : ((r.2.withSh c).render r.1).record r.1 = ((r.2.render r.1).record r.1).withSh c :=
    State.record_withSh (r.2.render r.1) c r.1
  rw [hrec]
  generalize (r.2.render r.1).record r.1 = w
  exact State.observeStop_withSh (State.setIrq { w with blkCnt := w.blkCnt + 1 } .blockDone) c

/-- PROCESS goes on alike under another shadow configuration, refused or not (R181). -/
theorem exec_process_withSh (s t : State) (c : Cfg) (n : BitVec 16) (dyn : Bool)
    (h : exec (.process n dyn) s = .next t) :
    exec (.process n dyn) (s.withSh c) = .next (t.withSh c) := by
  obtain ⟨u, hu, rfl⟩ := command_effect (i := .process n dyn) nofun nofun nofun h
  cases hu with
  | processed _ _ hm h1 h2 =>
    exact (execProcess_idle (s.withSh c) n dyn hm h1 h2).trans (by rw [State.processBlock_withSh]; rfl)
  | processRefused _ _ hm => exact execProcess_running (s.withSh c) n dyn hm
  | processBadLength _ _ hm hn => exact execProcess_badLength (s.withSh c) n dyn hm hn

/-- Settles O57: every operation of PROCESS and of the block cycle commutes with `State.withSh`. -/
theorem datapathIgnoresTheShadow : Obligations.DatapathIgnoresTheShadow := by
  intro s c n dyn o
  obtain ⟨t, ht⟩ := exec_next (.process n dyn) s
  exact ⟨⟨t, ht, exec_process_withSh s t c n dyn ht⟩, s.blockCycle_withSh c o⟩

/-! ### The Host and a running session (R111, R345, R378) -/

/-- From `s` to `t` a session went on untouched: what it is made of is as it was, `OUT_BUF` and `REC_BUF` included. -/
structure SessionKept (s t : State) : Prop where
  mode : t.mode = s.mode
  stopReq : t.stopReq = s.stopReq
  blockLen : t.blockLen = s.blockLen
  act : t.act = s.act
  filt : t.filt = s.filt
  recLen : t.recLen = s.recLen
  resultLen : t.resultLen = s.resultLen
  blkCnt : t.blkCnt = s.blkCnt
  peak : t.peak = s.peak
  outputs : ∀ a, 0x200000 ≤ a → t.memByte a = s.memByte a

/-- A state that differs in other fields only keeps the session: `{ SessionKept.refl s with }`. -/
theorem SessionKept.refl (s : State) : SessionKept s s :=
  ⟨rfl, rfl, rfl, rfl, rfl, rfl, rfl, rfl, rfl, fun _ _ => rfl⟩

/-- Raising an error leaves the session alone (R378). -/
theorem SessionKept.raise (s : State) (c : Cause) (loc : BitVec 8) (info : BitVec 32) :
    SessionKept s (s.raise c loc info) := { SessionKept.refl s with }

/-- A write to `CMD` that is not RESET's leaves the session alone: the word is held or dropped (R173). -/
theorem SessionKept.writeCmd (s : State) {v : Word} (hv : v ≠ 0x0000000000000001#64) :
    SessionKept s (s.writeCmd v) := by
  unfold State.writeCmd
  rw [if_neg hv]
  split
  · exact .raise s _ _ _
  · exact { SessionKept.refl s with }

/-- A write to `IN_BUF` stays below `OUT_BUF` (R188). -/
theorem SessionKept.writeInBuf (s : State) {i : Nat} (hi : i < s.params.nMax) (v : Word) :
    SessionKept s (s.storeWord (inBase + 8 * i) v) := by
  have hn := (params_bounds s.params).2.1
  refine { SessionKept.refl s with outputs := fun a ha => s.memByte_storeWord_of_ne _ a v (.inr ?_) }
  unfold inBase
  omega

/-- A write permitted while RUNNING leaves the session alone, unless it resets (R111). -/
theorem SessionKept.writeItem (s : State) (it : Item) (v : Word) (hex : it.exists_ s.params)
    (hw : mayWrite .running it) (hc : it = .cmd → v ≠ 0x0000000000000001#64) : SessionKept s (s.writeItem it v) := by
  cases it with
  | cmd => exact .writeCmd s (hc rfl)
  | inBuf i => exact .writeInBuf s hex v
  | error | irqStatus | irqEn | shadow _ => exact { SessionKept.refl s with }
  | blockLen | delay _ _ | bqReg _ _ => cases hw
  | _ => exact hw.elim

/-- Settles O58: a transaction is refused, reads, or writes an item the table of R111 lets a running session have. -/
theorem hostCannotTouchARunningSession : Obligations.HostCannotTouchARunningSession := by
  intro s i hm hi hne
  obtain ⟨t, ht⟩ := exec_next i s.popped
  have hkept : SessionKept s.popped t := by
    rcases host_cases i s t hi ht with ⟨c, a, ⟨v, -, -, rfl⟩ | ⟨-, -, rfl⟩⟩ | ⟨b, rfl⟩ |
      ⟨a, v, it, rfl, ha, hit, hd, rfl⟩
    · exact .raise _ _ _ _
    · exact { SessionKept.raise s.popped c 0 a with }
    · exact { SessionKept.refl s.popped with }
    · obtain ⟨hex, -⟩ := exists_and_addr_of_itemAt ((low_bits_eq_zero_iff a).mp ha) hit
      have hw : mayWrite .running it := by
        by_contra hw
        rw [← hm, ← Item.not_mayWrite_iff, hd] at hw
        cases hw
      refine .writeItem _ it v hex hw ?_
      rintro rfl rfl
      exact hne (by rw [addr_eq_of_itemAt_cmd hit]; rfl)
  exact ⟨t, (stepIssuesTheHostTransaction s i hi).trans ht, hkept.mode.trans hm, hkept.stopReq, hkept.blockLen,
    hkept.act, hkept.filt, hkept.recLen, hkept.resultLen, hkept.blkCnt, hkept.peak, hkept.outputs⟩

end Sys2Proof.Machine

/-!
PROOFS of the family "encoding": the two formats field by field, the decoder and the encoder as inverses of each
other, the rows of the opcode table, and the illegal words.
-/

namespace Sys2Proof

/-! ### The fields of a command word (R142, R143) -/

/-- A joined value is the one with the two parts as its upper and its lower field. -/
theorem append_eq_iff {n m : Nat} (a : BitVec n) (b : BitVec m) (x : BitVec (n + m)) :
    a ++ b = x ↔ x.extractLsb' m n = a ∧ x.extractLsb' 0 m = b := by
  constructor
  · rintro rfl
    exact ⟨BitVec.extractLsb'_append_eq_left, BitVec.extractLsb'_append_eq_right⟩
  · rintro ⟨rfl, rfl⟩
    exact BitVec.extractLsb'_append_extractLsb'

/-- A field above the lower part is one of the upper part. -/
theorem extractLsb'_append_upper {n m : Nat} (a : BitVec n) (b : BitVec m) (s k : Nat) :
    (a ++ b).extractLsb' (m + s) k = a.extractLsb' s k := by
  rw [BitVec.extractLsb'_append_eq_of_le (Nat.le_add_right m s), Nat.add_sub_cancel_left]

/-- A field of a field is a field. -/
theorem extractLsb'_extractLsb' {w n s k : Nat} (x : BitVec w) (a : Nat) (h : s + k ≤ n) :
    (x.extractLsb' a n).extractLsb' s k = x.extractLsb' (a + s) k := by
  refine BitVec.eq_of_getLsbD_eq fun i hi => ?_
  simp only [BitVec.getLsbD_extractLsb', show s + i < n by omega, decide_true, Bool.true_and, Nat.add_assoc]

/-- The word made of three fields is the one that has them, and zeros above (R142). -/
theorem eq_cmdWord_iff (v : BitVec 64) (op a8 : BitVec 8) (a16 : BitVec 16) :
    v = cmdWord op a8 a16 ↔ cmdHigh v = 0 ∧ cmdOp v = op ∧ cmdA8 v = a8 ∧ cmdA16 v = a16 := by
  constructor
  · rintro rfl
    refine ⟨?_, BitVec.extractLsb'_append_eq_right, ?_, ?_⟩
    · exact (extractLsb'_append_upper _ op 24 32).trans
        ((extractLsb'_append_upper _ a8 16 32).trans BitVec.extractLsb'_append_eq_left)
    · exact (extractLsb'_append_upper _ op 0 8).trans BitVec.extractLsb'_append_eq_right
    · exact (extractLsb'_append_upper _ op 8 16).trans
        ((extractLsb'_append_upper _ a8 0 16).trans BitVec.extractLsb'_append_eq_right)
  · rintro ⟨hhigh, rfl, rfl, rfl⟩
    exact (cmdWord_fields v hhigh).symm

/-- FLUSH's `A8` is the mask under three zero bits (R143). -/
theorem eq_flushA8_iff (a : BitVec 8) (mask : BitVec 5) :
    a = 0#3 ++ mask ↔ a.extractLsb' 5 3 = 0 ∧ a.extractLsb' 0 5 = mask := by
  rw [eq_comm, append_eq_iff]
  rfl

/-- PROCESS's `A8` is `DYN` under seven zero bits (R143). -/
theorem eq_processA8_iff (a : BitVec 8) (dyn : Bool) :
    a = 0#7 ++ BitVec.ofBool dyn ↔ a.extractLsb' 1 7 = 0 ∧ a.getLsbD 0 = dyn := by
  have hdyn : a.extractLsb' 0 1 = BitVec.ofBool (a.getLsbD 0) := by
    rw [← BitVec.setWidth_one, BitVec.setWidth_eq_extractLsb' (by decide)]
  rw [eq_comm, append_eq_iff, hdyn, BitVec.ofBool_eq_iff_eq]
  rfl

/-! ### Decoding and encoding are inverses (R141 to R144) -/

/-- FLUSH's decoder reads back the mask. -/
theorem decodeFlush_of_fields {v : BitVec 64} {mask : BitVec 5} (h8 : cmdA8 v = 0#3 ++ mask) (h16 : cmdA16 v = 0) :
    decodeFlush v = .ok (.flush mask) := by
  obtain ⟨hzero, hmask⟩ := (eq_flushA8_iff _ _).mp h8
  simp [decodeFlush, hzero, hmask, h16]

/-- PROCESS's decoder reads back the length and `DYN`. -/
theorem decodeProcess_of_fields {v : BitVec 64} {n : BitVec 16} {dyn : Bool}
    (h8 : cmdA8 v = 0#7 ++ BitVec.ofBool dyn) (h16 : cmdA16 v = n) : decodeProcess v = .ok (.process n dyn) := by
  obtain ⟨hzero, hdyn⟩ := (eq_processA8_iff _ _).mp h8
  rw [decodeProcess, if_neg (not_not.mpr hzero), hdyn, h16]

/-- The BUS decoder reads back `W` and the address (R141). -/
theorem decodeBus_append (w : Bool) (addr : BitVec 32) (data : BitVec 64) :
    decodeBus (BitVec.ofBool w ++ addr) data = if w then .wr64 addr data else .rd64 addr := by
  have hw : (BitVec.ofBool w ++ addr).getLsbD 32 = w := by rw [BitVec.getLsbD_append]; simp
  rw [decodeBus, hw, BitVec.extractLsb'_append_eq_right]

/-- Decoding inverts encoding: the operand types are exactly the fields, so no hypothesis is needed. -/
theorem decode_encode (i : Instr) : decode (encode i) = .ok i := by
  cases i with
  | nop | reset | commit | start | stop | clrpeak => rfl
  | flush mask =>
    obtain ⟨hhigh, hop, h8, h16⟩ := (eq_cmdWord_iff _ _ _ _).mp (rfl : encodeCmd (.flush mask) = _)
    simp [decode, encode, decodeCmd, hhigh, hop, decodeFlush_of_fields h8 h16]
  | process n dyn =>
    obtain ⟨hhigh, hop, h8, h16⟩ := (eq_cmdWord_iff _ _ _ _).mp (rfl : encodeCmd (.process n dyn) = _)
    simp [decode, encode, decodeCmd, hhigh, hop, decodeProcess_of_fields h8 h16]
  | rd64 addr => exact congrArg Except.ok (decodeBus_append false addr 0)
  | wr64 addr data => exact congrArg Except.ok (decodeBus_append true addr data)

/-- Settles O1: no instruction is ill-formed, so this is `decode_encode`. -/
theorem decodeInvertsEncode : Obligations.DecodeInvertsEncode := fun i _ => decode_encode i

/-- The commands without operands, with their opcodes (R144). -/
def plainCommands : List (BitVec 8 × Instr) :=
  [(0x00#8, .nop), (0x01#8, .reset), (0x02#8, .commit), (0x03#8, .start), (0x04#8, .stop), (0x07#8, .clrpeak)]

/-- The commands without operands have their opcode alone as their word (R144). -/
theorem encode_of_plain : ∀ q ∈ plainCommands, encode q.2 = .cmd (cmdWord q.1 0 0) := by decide

/-- Settles O2: the decoder that accepted the word fixes all its fields, and the encoder has the same. -/
theorem legalWordIsItsCommandsEncoding : Obligations.LegalWordIsItsCommandsEncoding := by
  intro v i h
  obtain ⟨hhigh, ⟨op, j, hmem, hop, hp⟩ | ⟨hop, hf⟩ | ⟨hop, hp⟩⟩ := decodeCmd_ok v i h
  · obtain ⟨h8, h16, rfl⟩ := decodePlain_ok v j i hp
    rw [encode_of_plain _ hmem, (eq_cmdWord_iff v op 0 0).mpr ⟨hhigh, hop, h8, h16⟩]
  · obtain ⟨hzero, h16, rfl⟩ := decodeFlush_ok v i hf
    have h8 := (eq_flushA8_iff _ _).mpr ⟨hzero, rfl⟩
    exact congrArg Encoded.cmd ((eq_cmdWord_iff v _ _ _).mpr ⟨hhigh, hop, h8, h16⟩).symm
  · obtain ⟨hzero, rfl⟩ := decodeProcess_ok v i hp
    have h8 := (eq_processA8_iff _ _).mpr ⟨hzero, rfl⟩
    exact congrArg Encoded.cmd ((eq_cmdWord_iff v _ _ _).mpr ⟨hhigh, hop, h8, rfl⟩).symm

/-- A word decodes to an instruction exactly when it is its encoding. -/
theorem decodeCmd_eq_ok_iff (v : BitVec 64) (i : Instr) : decodeCmd v = .ok i ↔ encode i = .cmd v := by
  constructor
  · exact legalWordIsItsCommandsEncoding v i
  · intro h
    exact (congrArg decode h).symm.trans (decode_encode i)

/-! ### The rows of the opcode table (R144) -/

/-- A masked match, field by field: the masks of the table cover `MBZ` and `OP` whole. -/
theorem and_eq_cmdWord_iff {m : BitVec 64} {m8 : BitVec 8} {m16 : BitVec 16} (hhigh : cmdHigh m = BitVec.allOnes 32)
    (hop : cmdOp m = BitVec.allOnes 8) (h8 : cmdA8 m = m8) (h16 : cmdA16 m = m16) (v : BitVec 64) (op a8 : BitVec 8)
    (a16 : BitVec 16) :
    v &&& m = cmdWord op a8 a16 ↔ cmdHigh v = 0 ∧ cmdOp v = op ∧ cmdA8 v &&& m8 = a8 ∧ cmdA16 v &&& m16 = a16 := by
  have hfields : cmdHigh (v &&& m) = cmdHigh v &&& cmdHigh m ∧ cmdOp (v &&& m) = cmdOp v &&& cmdOp m ∧
      cmdA8 (v &&& m) = cmdA8 v &&& cmdA8 m ∧ cmdA16 (v &&& m) = cmdA16 v &&& cmdA16 m :=
    ⟨BitVec.extractLsb'_and, BitVec.extractLsb'_and, BitVec.extractLsb'_and, BitVec.extractLsb'_and⟩
  obtain ⟨ehigh, eop, e8, e16⟩ := hfields
  rw [eq_cmdWord_iff, ehigh, eop, e8, e16, hhigh, hop, h8, h16, BitVec.and_allOnes, BitVec.and_allOnes]

/-- A word decodes to a command exactly when it is the command's word. -/
theorem decodeCmd_eq_ok_iff_eq {i : Instr} {w : BitVec 64} (hi : encode i = .cmd w) (v : BitVec 64) :
    decodeCmd v = .ok i ↔ v = w := by
  rw [decodeCmd_eq_ok_iff, hi, Encoded.cmd.injEq, eq_comm]

/-- A command of one word matches under the full mask. -/
theorem decodeCmd_eq_ok_iff_fullMask {i : Instr} {w : BitVec 64} (hi : encode i = .cmd w) (v : BitVec 64) :
    decodeCmd v = .ok i ↔ v &&& 0xFFFFFFFFFFFFFFFF#64 = w :=
  (decodeCmd_eq_ok_iff_eq hi v).trans (Eq.congr_left BitVec.and_allOnes.symm)

/-- FLUSH's row, field by field (R143). -/
theorem flushRow_iff (v : BitVec 64) :
    v &&& 0xFFFFFFFFFFFFE0FF#64 = 0x5#64 ↔
      cmdHigh v = 0 ∧ cmdOp v = 0x05#8 ∧ (cmdA8 v).extractLsb' 5 3 = 0 ∧ cmdA16 v = 0 := by
  have hmbz : ∀ a : BitVec 8, a &&& 0xE0#8 = 0 ↔ a.extractLsb' 5 3 = 0 := by decide
  have hrow := and_eq_cmdWord_iff (m := 0xFFFFFFFFFFFFE0FF#64) (m8 := 0xE0#8) (m16 := BitVec.allOnes 16)
    rfl rfl rfl rfl v 0x05 0 0
  rwa [hmbz, BitVec.and_allOnes] at hrow

/-- PROCESS's row, field by field (R143). -/
theorem processRow_iff (v : BitVec 64) :
    v &&& 0xFFFFFFFF0000FEFF#64 = 0x6#64 ↔
      cmdHigh v = 0 ∧ cmdOp v = 0x06#8 ∧ (cmdA8 v).extractLsb' 1 7 = 0 := by
  have hmbz : ∀ a : BitVec 8, a &&& 0xFE#8 = 0 ↔ a.extractLsb' 1 7 = 0 := by decide
  have hrow := and_eq_cmdWord_iff (m := 0xFFFFFFFF0000FEFF#64) (m8 := 0xFE#8) (m16 := 0#16)
    rfl rfl rfl rfl v 0x06 0 0#16
  rwa [hmbz, BitVec.and_zero, eq_self, and_true] at hrow

/-- The words of FLUSH, and the field of its mask (R143). -/
theorem decodeCmd_eq_flush_iff (v : BitVec 64) (mask : BitVec 5) :
    decodeCmd v = .ok (.flush mask) ↔ v &&& 0xFFFFFFFFFFFFE0FF#64 = 0x5#64 ∧ mask = v.extractLsb' 8 5 := by
  have hmask : (cmdA8 v).extractLsb' 0 5 = v.extractLsb' 8 5 := extractLsb'_extractLsb' v 8 (by decide)
  rw [decodeCmd_eq_ok_iff_eq rfl, encodeCmd, eq_cmdWord_iff, eq_flushA8_iff, flushRow_iff, hmask, @eq_comm _ mask]
  tauto

/-- The words of PROCESS, and the fields of its operands (R143). -/
theorem decodeCmd_eq_process_iff (v : BitVec 64) (n : BitVec 16) (dyn : Bool) :
    decodeCmd v = .ok (.process n dyn) ↔
      v &&& 0xFFFFFFFF0000FEFF#64 = 0x6#64 ∧ n = v.extractLsb' 16 16 ∧ dyn = v.getLsbD 8 := by
  have hdyn : (cmdA8 v).getLsbD 0 = v.getLsbD 8 := by
    rw [cmdA8, BitVec.getLsbD_extractLsb']
    rfl
  rw [decodeCmd_eq_ok_iff_eq rfl, encodeCmd, eq_cmdWord_iff, eq_processA8_iff, processRow_iff, hdyn,
    @eq_comm _ n, @eq_comm _ dyn, cmdA16]
  tauto

/-- A header is a write's when its `W` is set, else a read's (R141). -/
theorem decodeBus_cases (h : BitVec 33) (d : BitVec 64) :
    (h.getLsbD 32 = true ∧ decodeBus h d = .wr64 (h.extractLsb' 0 32) d) ∨
      (h.getLsbD 32 = false ∧ decodeBus h d = .rd64 (h.extractLsb' 0 32)) := by
  unfold decodeBus
  cases h.getLsbD 32
  · exact .inr ⟨rfl, rfl⟩
  · exact .inl ⟨rfl, rfl⟩

/-- Settles O3: the rows with operands by their fields, the others by their one word. -/
theorem legalWordsAreTheTableRows : Obligations.LegalWordsAreTheTableRows := by
  refine ⟨fun v => ?_, fun h d => ?_⟩
  · have oneWord {i : Instr} {w : BitVec 64} (hi : encode i = .cmd w) := decodeCmd_eq_ok_iff_fullMask hi v
    refine ⟨oneWord rfl, oneWord rfl, oneWord rfl, oneWord rfl, oneWord rfl, ?_, ?_, oneWord rfl, ?_, ?_⟩
    · exact (decodeCmd_eq_flush_iff v _).trans (and_iff_left rfl)
    · exact (decodeCmd_eq_process_iff v _ _).trans (and_iff_left ⟨rfl, rfl⟩)
    · exact fun m hm => ((decodeCmd_eq_flush_iff v m).mp hm).2
    · exact fun n dyn hp => ((decodeCmd_eq_process_iff v n dyn).mp hp).2
  · obtain ⟨hw, hd⟩ | ⟨hw, hd⟩ := decodeBus_cases h d <;> rw [hw, hd] <;> simp

/-- Settles O5: each word is the encoding of its command, each header `W` and the address. -/
theorem specWordsDecode : Obligations.SpecWordsDecode :=
  have decodes {v : BitVec 64} {i : Instr} : encode i = .cmd v → decodeCmd v = .ok i := (decodeCmd_eq_ok_iff v i).mpr
  ⟨decodes rfl, decodes rfl, decodes rfl, decodes rfl, decodes rfl, decodes rfl, decodes rfl, decodes rfl,
    decodeBus_append false 0x00000018 0, decodeBus_append true 0x00010008 0x3FE0000000000000⟩

end Sys2Proof

namespace Sys2Proof.Machine

/-! ### Illegal words (R145) -/

/-- The must-be-zero bits of a FLUSH word (R143). -/
theorem not_mbzViolated_flush_iff {v : BitVec 64} (hop : cmdOp v = 0x05#8) :
    ¬ MbzViolated v ↔ (cmdA8 v).extractLsb' 5 3 = 0 ∧ cmdA16 v = 0 := by
  rw [MbzViolated, if_pos (by exact hop), cmdA8, extractLsb'_extractLsb' v 8 (by decide), ← not_and_or, not_not]
  rfl

/-- The must-be-zero bits of a PROCESS word (R143). -/
theorem not_mbzViolated_process_iff {v : BitVec 64} (hop : cmdOp v = 0x06#8) :
    ¬ MbzViolated v ↔ (cmdA8 v).extractLsb' 1 7 = 0 := by
  have h5 : v.extractLsb' 0 8 ≠ 0x05#8 := fun h => absurd (hop.symm.trans h) (by decide)
  rw [MbzViolated, if_neg h5, if_pos (by exact hop), cmdA8, extractLsb'_extractLsb' v 8 (by decide), not_not]

/-- The must-be-zero bits of any other word (R143). -/
theorem not_mbzViolated_plain_iff {v : BitVec 64} (h5 : cmdOp v ≠ 0x05#8) (h6 : cmdOp v ≠ 0x06#8) :
    ¬ MbzViolated v ↔ cmdA8 v = 0 ∧ cmdA16 v = 0 := by
  rw [MbzViolated, if_neg (by exact h5), if_neg (by exact h6), ← not_and_or, not_not]
  rfl

/-- The opcodes below 8 are FLUSH's, PROCESS's and those without operands (R144). -/
theorem op_cases : ∀ op : BitVec 8, op.toNat < 8 →
    op = 0x05#8 ∨ op = 0x06#8 ∨ (op ≠ 0x05#8 ∧ op ≠ 0x06#8 ∧ ∃ q ∈ plainCommands, q.1 = op) := by decide

/-- The words R145 does not make illegal are the words of the commands. -/
theorem exists_decodeCmd_iff (v : BitVec 64) :
    (∃ i, decodeCmd v = .ok i) ↔ (cmdOp v).toNat < 8 ∧ cmdHigh v = 0 ∧ ¬ MbzViolated v := by
  constructor
  · rintro ⟨i, h⟩
    obtain ⟨hhigh, ⟨op, j, hmem, hop, hp⟩ | ⟨hop, hf⟩ | ⟨hop, hp⟩⟩ := decodeCmd_ok v i h
    · obtain ⟨h8, h16, -⟩ := decodePlain_ok v j i hp
      have hplain : ∀ q ∈ plainCommands, q.1.toNat < 8 ∧ q.1 ≠ 0x05#8 ∧ q.1 ≠ 0x06#8 := by decide
      obtain ⟨hlt, h5, h6⟩ := hplain _ hmem
      rw [← hop] at hlt h5 h6
      exact ⟨hlt, hhigh, (not_mbzViolated_plain_iff h5 h6).mpr ⟨h8, h16⟩⟩
    · obtain ⟨h8, h16, -⟩ := decodeFlush_ok v i hf
      exact ⟨hop ▸ by decide, hhigh, (not_mbzViolated_flush_iff hop).mpr ⟨h8, h16⟩⟩
    · obtain ⟨h8, -⟩ := decodeProcess_ok v i hp
      exact ⟨hop ▸ by decide, hhigh, (not_mbzViolated_process_iff hop).mpr h8⟩
  · rintro ⟨hlt, hhigh, hmbz⟩
    obtain hop | hop | ⟨h5, h6, q, hq, hop⟩ := op_cases _ hlt
    · have hrow := (flushRow_iff v).mpr ⟨hhigh, hop, (not_mbzViolated_flush_iff hop).mp hmbz⟩
      exact ⟨_, (decodeCmd_eq_flush_iff v _).mpr ⟨hrow, rfl⟩⟩
    · have hrow := (processRow_iff v).mpr ⟨hhigh, hop, (not_mbzViolated_process_iff hop).mp hmbz⟩
      exact ⟨_, (decodeCmd_eq_process_iff v _ _).mpr ⟨hrow, rfl, rfl⟩⟩
    · obtain ⟨h8, h16⟩ := (not_mbzViolated_plain_iff h5 h6).mp hmbz
      have hv : v = cmdWord q.1 0 0 := (eq_cmdWord_iff v _ _ _).mpr ⟨hhigh, hop.symm, h8, h16⟩
      exact ⟨q.2, (decodeCmd_eq_ok_iff_eq (encode_of_plain q hq) v).mpr hv⟩

/-- A word is illegal in one of the three ways of R145. -/
theorem not_exists_decodeCmd_iff (v : BitVec 64) :
    (¬ ∃ i, decodeCmd v = .ok i) ↔ 8 ≤ (cmdOp v).toNat ∨ cmdHigh v ≠ 0 ∨ MbzViolated v := by
  rw [exists_decodeCmd_iff, not_and_or, not_and_or, not_lt, not_not]

/-- Settles O4: a word that does not decode leaves the Engine its error and the end of the command. -/
theorem illegalWordRaisesCauseOne : Obligations.IllegalWordRaisesCauseOne := by
  intro s v hm hs
  refine ⟨not_exists_decodeCmd_iff v, fun hill => ?_⟩
  cases hd : decodeCmd v with
  | ok i => exact absurd ⟨i, hd⟩ ((not_exists_decodeCmd_iff v).mpr hill)
  | error e => exact (step_moves s hm).trans (engineStep_illegal s.popped v e hs hd)

end Sys2Proof.Machine

/-!
PROOFS of the family "commands": the commands as the Engine performs them, the Host's reads and permitted writes, and
where a byte of the sample memories can change.
-/

namespace Sys2Proof.Machine

/-! ### The commands (R174 to R182) -/

/-- Settles O6: the Engine's step on the held word is `exec` of what it decodes to. -/
theorem stepPerformsTheHeldCommand : Obligations.StepPerformsTheHeldCommand := by
  rintro s i ⟨hm, v, hs, hd⟩
  exact (step_moves s hm).trans (engineStep_command s.popped v i hs hd)

/-- Settles O16: `State.finishCommand` is `Ended`, and stores nothing. -/
theorem nopOnlyEndsTheCommand : Obligations.NopOnlyEndsTheCommand := fun _ => ⟨rfl, fun _ => rfl⟩

/-- A delay line keeps its samples under the same tap count (R283). -/
theorem retainOrZero_of_eq {new old : FirCfg} (h : new.taps = old.taps) (dl : List F64) :
    retainOrZero new old dl = dl := if_neg (not_not.mpr h)

/-- A delay line is zeroed under another tap count (R283). -/
theorem retainOrZero_of_ne {new old : FirCfg} (h : new.taps ≠ old.taps) (dl : List F64) :
    retainOrZero new old dl = zeros new.delayLen := if_pos h

/-- Settles O17: VALIDATE's answer decides, and each delay line goes by its own tap count. -/
theorem commitAppliesOrRejects : Obligations.CommitAppliesOrRejects := by
  refine fun s => ⟨execCommit_rejected s, fun hv => ?_⟩
  exact ⟨_, execCommit_applied s hv, rfl, fun h => retainOrZero_of_ne h _, fun h => retainOrZero_of_eq h _,
    fun h => retainOrZero_of_ne h _, fun h => retainOrZero_of_eq h _, rfl, rfl, fun _ => rfl⟩

/-- Settles O20: START is refused while RUNNING, and flushes all five stages while IDLE. -/
theorem startBeginsAFreshSession : Obligations.StartBeginsAFreshSession := by
  refine fun s => ⟨execStart_running s, fun hm => ?_⟩
  exact ⟨_, execStart_idle s hm, rfl, rfl, by simp [FilterState.flush, BqState.zero, f64Zero], rfl, fun _ => rfl⟩

/-- Settles O21: STOP by mode. -/
theorem stopRequestsTheEnd : Obligations.StopRequestsTheEnd := by
  refine fun s => ⟨execStop_running s, execStop_idle s, fun t ht a => ?_⟩
  obtain ⟨u, hu, rfl⟩ := command_effect (i := .stop) nofun nofun nofun ht
  cases hu with
  | stopRequested | resultDropped => rfl

/-- `INFO` of a command's error is the three lower fields of its word (R142, R371). -/
theorem cmdWord_low (op a8 : BitVec 8) (a16 : BitVec 16) :
    (cmdWord op a8 a16).extractLsb' 0 32 = a16 ++ a8 ++ op := by
  have h : cmdWord op a8 a16 = 0#32 ++ (a16 ++ a8 ++ op) := by
    simp only [cmdWord, BitVec.append_assoc', BitVec.cast_eq]
  rw [h, BitVec.extractLsb'_append_eq_right]

/-- Settles O22: FLUSH is refused while RUNNING, and each stage goes by its bit of the mask while IDLE. -/
theorem flushZeroesTheMaskedStages : Obligations.FlushZeroesTheMaskedStages := by
  intro s mask
  have hinfo : ∀ m : BitVec 5, cmdInfo (.flush m) = 0#19 ++ m ++ 0x05#8 := by decide
  refine ⟨fun hm => hinfo mask ▸ execFlush_running mask s hm, fun hm => ?_⟩
  exact ⟨_, execFlush_idle mask s hm, rfl, rfl, rfl, rfl, rfl, rfl, fun _ => rfl⟩

/-- Settles O24: `CLR_PEAK` is one field's update and the end of the command. -/
theorem clrPeakClearsOnlyThePeak : Obligations.ClrPeakClearsOnlyThePeak := fun _ => ⟨_, rfl, rfl, fun _ => rfl⟩

/-- PROCESS's outputs are read back from `OUT_BUF` (R181). -/
theorem State.processBlock_memWords (s : State) (n : Nat) (dyn : Bool) :
    (s.processBlock n dyn).memWords outBase n = (s.runBlock dyn (s.memWords inBase n)).1 := by
  have hread := s.memWords_storeWords outBase (s.runBlock dyn (s.memWords inBase n)).1
  rw [State.runBlock_length, State.memWords_length] at hread
  rw [← hread]
  exact State.memWords_congr (by simp) (by simp) outBase n

/-- PROCESS changes memory and `BLK_CNT` beside what the block through the chain changes (R181). -/
theorem State.processBlock_frame (s : State) (n : Nat) (dyn : Bool) :
    s.processBlock n dyn =
      { (s.runBlock dyn (s.memWords inBase n)).2 with
        mem := (s.processBlock n dyn).mem, blkCnt := s.blkCnt + 1 } := by
  rw [← s.processBlock_blkCnt n dyn]
  rfl

/-- Settles O23: the two refusals by mode and length, else `State.processBlock`. -/
theorem processRunsABlockOffline : Obligations.ProcessRunsABlockOffline := by
  intro s n dyn
  have hinfo : cmdInfo (.process n dyn) = n ++ (0#7 ++ BitVec.ofBool dyn) ++ 0x06#8 := cmdWord_low _ _ _
  rw [← hinfo]
  refine ⟨execProcess_running s n dyn, execProcess_badLength s n dyn, fun hm h1 h2 => ?_⟩
  have hfilt : (s.processBlock n.toNat dyn).finishCommand.filt =
      (chainBlock s.act s.filt (s.memWords 0x100000 n.toNat)).2 := s.processBlock_filt n.toNat dyn
  have hrun : finishBlock { s with filt := (chainBlock s.act s.filt (s.memWords 0x100000 n.toNat)).2 } dyn 0
      (chainBlock s.act s.filt (s.memWords 0x100000 n.toNat)).1 = s.runBlock dyn (s.memWords inBase n.toNat) := rfl
  refine ⟨_, execProcess_idle s n dyn hm h1 h2, hfilt, ?_, fun a ha => s.processBlock_memByte n.toNat a dyn ha, ?_⟩
  · rw [hfilt, hrun, ← s.processBlock_memWords]
    exact State.memWords_congr (State.finishCommand_mem _) (State.finishCommand_powerOns _) _ _
  · rw [hfilt, hrun]
    exact congrArg State.finishCommand (s.processBlock_frame n.toNat dyn)

/-! ### Permitted transactions (R171, R172) -/

/-- An item is reached at its address, where `denied` does not refuse it (R376). -/
theorem access_item {p : Params} {i : Item} {a : Addr} (hex : i.exists_ p) (haddr : i.addr = a.toNat)
    {denied : Item → Bool} (hd : denied i = false) : access p denied a = .granted i :=
  access_granted p denied a i ((low_bits_eq_zero_iff a).mpr (haddr ▸ i.addr_mod)) (haddr ▸ itemAt_addr p i hex) hd

/-- A read that R111 allows returns the item's value (R171). -/
theorem exec_rd64_item {s : State} {i : Item} {a : Addr} (hex : i.exists_ s.params) (haddr : i.addr = a.toNat)
    (hr : mayRead s.mode i) : exec (.rd64 a) s = .next { s with busRead := s.readItem i } := by
  have hd : i.readDenied s.mode = false := Bool.eq_false_iff.mpr fun h => (i.readDenied_eq_true_iff _).mp h hr
  have hacc : s.readAccess a = .granted i := access_item hex haddr hd
  simp only [exec, execRd64, hacc]

/-- A write that R111 and R112 allow is the item's (R172). -/
theorem exec_wr64_item {s : State} {i : Item} {a : Addr} (hex : i.exists_ s.params) (haddr : i.addr = a.toNat)
    (hw : mayWrite s.mode i) (v : Word) : exec (.wr64 a v) s = .next (s.writeItem i v) := by
  have hd : (i.readOnly || i.writeDenied s.mode) = false :=
    Bool.eq_false_iff.mpr fun h => (i.not_mayWrite_iff _).mp h hw
  have hacc : s.writeAccess a = .granted i := access_item hex haddr hd
  simp only [exec, execWr64, hacc]

/-! ### The values of items (R171) -/

/-- The value a configuration item reads as is the field it names (R49 to R53). -/
theorem Cfg.read_eq_value (c : Cfg) (i : CfgItem) : c.read i = i.value c := by
  cases i with
  | taps st => cases st <;> exact zero_append_eq_zeroExtend 48 _
  | coef st k => cases st <;> rfl
  | biquad b k => cases b <;> cases k <;> rfl
  | dyn d => cases d <;> rfl

/-- The value an item reads as is the field it names (R31 to R60). -/
theorem State.readItem_eq_value (s : State) (i : Item) : s.readItem i = i.value s := by
  cases i with
  | irqStatus => exact zero_append_eq_zeroExtend 60 s.irqStatus
  | irqEn => exact zero_append_eq_zeroExtend 60 s.irqEn
  | blockLen => exact zero_append_eq_zeroExtend 48 s.blockLen
  | recLen => exact zero_append_eq_zeroExtend 42 s.recLen
  | resultLen => exact zero_append_eq_zeroExtend 42 s.resultLen
  | shadow c => exact s.sh.read_eq_value c
  | active c => exact s.act.read_eq_value c
  | delay st k => cases st <;> rfl
  | bqReg b r => cases b <;> cases r <;> rfl
  | _ => rfl

/-- Settles O29: the read is granted, and returns the field the item names. -/
theorem allowedReadReturnsTheItem : Obligations.AllowedReadReturnsTheItem := by
  intro s i a hex haddr hr
  rw [exec_rd64_item hex haddr hr, s.readItem_eq_value]

/-! ### Writes to control registers (R173, R183 to R186) -/

/-- Settles O12: `CMD` is written in either mode. -/
theorem cmdWriteHandsTheWordOver : Obligations.CmdWriteHandsTheWordOver := by
  intro s v
  rw [exec_wr64_item (i := .cmd) trivial rfl trivial, State.writeItem, State.writeCmd]
  cases s.slot <;> split <;> rfl

/-- The bits of `ERROR` stand one place up (R39). -/
theorem State.errorReg_getLsbD (s : State) (k : Nat) :
    s.errorReg.getLsbD k = (decide (1 ≤ k ∧ k - 1 < 16) && s.error.getLsbD (k - 1)) := by
  simp only [State.errorReg, BitVec.getLsbD_append]
  cases k <;> simp

/-- Settles O31: bit by bit, the masks' bits by evaluation. -/
theorem writeOneClearsStickyBits : Obligations.WriteOneClearsStickyBits := by
  refine fun s v => ⟨⟨_, exec_wr64_item (i := .error) trivial rfl trivial v, ?_, rfl⟩,
    ⟨_, exec_wr64_item (i := .irqStatus) trivial rfl trivial v, ?_, rfl⟩⟩
  · have hmask : ∀ k < 64, (0x000000000001FFFE#64).getLsbD k = decide (1 ≤ k ∧ k - 1 < 16) := by decide
    refine BitVec.eq_of_getLsbD_eq fun k hk => ?_
    simp only [State.writeItem, BitVec.getLsbD_and, BitVec.getLsbD_not, State.errorReg_getLsbD,
      State.clearError_error, BitVec.getLsbD_extractLsb', hmask k hk, hk]
    by_cases h : 1 ≤ k ∧ k - 1 < 16
    · simp [h, show 1 + (k - 1) = k by omega]
    · simp only [h, decide_false, Bool.false_and]
  · have hmask : ∀ k < 64, (0x000000000000000F#64).getLsbD k = decide (k < 4) := by decide
    refine BitVec.eq_of_getLsbD_eq fun k hk => ?_
    simp only [State.writeItem, BitVec.getLsbD_and, BitVec.getLsbD_not, State.clearIrq_irqStatus,
      BitVec.getLsbD_extractLsb', BitVec.truncate_eq_setWidth, BitVec.getLsbD_setWidth, hmask k hk, hk]
    by_cases h : k < 4
    · simp [h]
    · simp [h, BitVec.getLsbD_of_ge s.irqStatus k (by omega)]

/-- Settles O32: `BLOCK_LEN` is written while IDLE only, and `State.writeBlockLen` checks bits 15:0. -/
theorem blockLenTakesOnlyLegalValues : Obligations.BlockLenTakesOnlyLegalValues := by
  intro s v hm
  have hlow : (v.extractLsb' 0 16).toNat = v.toNat % 65536 := by simp
  have hval : v.extractLsb' 0 16 = BitVec.ofNat 16 v.toNat := BitVec.eq_of_toNat_eq (by simp)
  rw [exec_wr64_item (i := .blockLen) trivial rfl hm, State.writeItem, State.writeBlockLen, ← hlow, ← hval]
  exact apply_ite ..

/-! ### Configuration and filter state by stage: a read after a write -/

@[simp] theorem Cfg.fir_setFir (c : Cfg) (f : FirCfg) (st st' : FirStage) :
    (c.setFir f st).fir st' = if st' = st then f else c.fir st' := by
  cases st <;> cases st' <;> rfl

@[simp] theorem Cfg.biquad_setFir (c : Cfg) (f : FirCfg) (st : FirStage) (b : BiquadStage) :
    (c.setFir f st).biquad b = c.biquad b := by
  cases st <;> rfl

@[simp] theorem Cfg.dyn_setFir (c : Cfg) (f : FirCfg) (st : FirStage) (d : DynParam) :
    (c.setFir f st).dyn d = c.dyn d := by
  cases st <;> rfl

@[simp] theorem Cfg.biquad_setBiquad (c : Cfg) (q : BiquadCfg) (b b' : BiquadStage) :
    (c.setBiquad q b).biquad b' = if b' = b then q else c.biquad b' := by
  cases b <;> cases b' <;> rfl

@[simp] theorem Cfg.fir_setBiquad (c : Cfg) (q : BiquadCfg) (b : BiquadStage) (st : FirStage) :
    (c.setBiquad q b).fir st = c.fir st := by
  cases b <;> rfl

@[simp] theorem Cfg.dyn_setBiquad (c : Cfg) (q : BiquadCfg) (b : BiquadStage) (d : DynParam) :
    (c.setBiquad q b).dyn d = c.dyn d := by
  cases b <;> rfl

@[simp] theorem Cfg.dyn_setDyn (c : Cfg) (v : F64) (d d' : DynParam) :
    (c.setDyn v d).dyn d' = if d' = d then v else c.dyn d' := by
  cases d <;> cases d' <;> rfl

@[simp] theorem Cfg.fir_setDyn (c : Cfg) (v : F64) (d : DynParam) (st : FirStage) :
    (c.setDyn v d).fir st = c.fir st := by
  cases d <;> rfl

@[simp] theorem Cfg.biquad_setDyn (c : Cfg) (v : F64) (d : DynParam) (b : BiquadStage) :
    (c.setDyn v d).biquad b = c.biquad b := by
  cases d <;> rfl

@[simp] theorem BiquadCfg.get_set (q : BiquadCfg) (v : F64) (k k' : BiquadCoef) :
    (q.set v k).get k' = if k' = k then v else q.get k' := by
  cases k <;> cases k' <;> rfl

@[simp] theorem FilterState.dl_setDl (f : FilterState) (d : List F64) (st st' : FirStage) :
    (f.setDl d st).dl st' = if st' = st then d else f.dl st' := by
  cases st <;> cases st' <;> rfl

@[simp] theorem FilterState.bq_setDl (f : FilterState) (d : List F64) (st : FirStage) (b : BiquadStage) :
    (f.setDl d st).bq b = f.bq b := by
  cases st <;> rfl

@[simp] theorem FilterState.bq_setBq (f : FilterState) (q : BqState) (b b' : BiquadStage) :
    (f.setBq q b).bq b' = if b' = b then q else f.bq b' := by
  cases b <;> cases b' <;> rfl

@[simp] theorem BqState.get_set (q : BqState) (v : F64) (r r' : BqReg) :
    (q.set v r).get r' = if r' = r then v else q.get r' := by
  cases r <;> cases r' <;> rfl

/-! ### Shadow writes -/

/-- What a configuration item keeps of a written word: a tap count bits 15:0, any other item all of it (R186). -/
def CfgItem.kept (i : CfgItem) (v : Word) : Word :=
  match i with
  | .taps _ => v &&& 0x000000000000FFFF#64
  | _ => v

/-- Bits 15:0 with zeros above them (R113). -/
theorem zero_append_low16 (v : Word) : 0#48 ++ v.extractLsb' 0 16 = v &&& 0x000000000000FFFF#64 := by
  rw [zero_append_eq_zeroExtend, ← BitVec.toNat_inj, BitVec.toNat_setWidth_of_le (by decide), BitVec.extractLsb'_toNat]
  exact (Nat.and_two_pow_sub_one_eq_mod v.toNat 16).symm

/-- A configuration item reads as what it keeps of the word written to it. -/
theorem Cfg.read_write (c : Cfg) (i : CfgItem) (v : Word)
    (hk : ∀ st k, i = .coef st k → k < (c.fir st).h.length) : (c.write i v).read i = i.kept v := by
  cases i with
  | taps st => simp only [Cfg.read, Cfg.write, Cfg.fir_setFir, if_true, zero_append_low16, CfgItem.kept]
  | coef st k => simp [Cfg.read, Cfg.write, CfgItem.kept, hk st k rfl]
  | biquad b k => simp [Cfg.read, Cfg.write, CfgItem.kept]
  | dyn d => simp [Cfg.read, Cfg.write, CfgItem.kept]

/-- Any other configuration item reads as before. -/
theorem Cfg.read_write_of_ne (c : Cfg) {i j : CfgItem} (h : j ≠ i) (v : Word) : (c.write i v).read j = c.read j := by
  cases i with
  | taps st =>
    cases j with
    | taps st' =>
      have hst : st' ≠ st := mt (congrArg CfgItem.taps) h
      simp [Cfg.read, Cfg.write, hst]
    | coef st' k => by_cases hst : st' = st <;> simp [Cfg.read, Cfg.write, hst]
    | _ => simp [Cfg.read, Cfg.write]
  | coef st k =>
    cases j with
    | taps st' => by_cases hst : st' = st <;> simp [Cfg.read, Cfg.write, hst]
    | coef st' k' =>
      by_cases hst : st' = st
      · subst hst
        have hk : k' ≠ k := mt (congrArg (CfgItem.coef st')) h
        simp [Cfg.read, Cfg.write, hk.symm]
      · simp [Cfg.read, Cfg.write, hst]
    | _ => simp [Cfg.read, Cfg.write]
  | biquad b k =>
    cases j with
    | biquad b' k' =>
      by_cases hb : b' = b
      · subst hb
        have hk : k' ≠ k := mt (congrArg (CfgItem.biquad b')) h
        simp [Cfg.read, Cfg.write, hk]
      · simp [Cfg.read, Cfg.write, hb]
    | _ => simp [Cfg.read, Cfg.write]
  | dyn d =>
    cases j with
    | dyn d' =>
      have hd : d' ≠ d := mt (congrArg CfgItem.dyn) h
      simp [Cfg.read, Cfg.write, hd]
    | _ => simp [Cfg.read, Cfg.write]

/-- Settles O33: a shadow item is `Cfg.write`'s. -/
theorem shadowWriteStoresTheValue : Obligations.ShadowWriteStoresTheValue := by
  intro s c a v h0 h1 hex haddr
  have hk : ∀ st k, c = .coef st k → k < (s.sh.fir st).h.length := by
    rintro st k rfl
    cases st with
    | lpf => exact hex.trans_eq h0.symm
    | hpf => exact hex.trans_eq h1.symm
  have hkept : c.value (s.sh.write c v) = c.kept v := (Cfg.read_eq_value _ c).symm.trans (s.sh.read_write c v hk)
  refine ⟨⟨_, exec_wr64_item hex haddr trivial v, rfl, hkept.trans (by cases c <;> rfl), fun d hd => ?_⟩,
    exec_wr64_item (i := .irqEn) trivial rfl trivial v⟩
  have hother := s.sh.read_write_of_ne hd v
  rwa [Cfg.read_eq_value, Cfg.read_eq_value] at hother

/-! ### Reloading the filter state (R187) -/

/-- Below the current length a delay-line element reads as what was written to it (R56). -/
theorem FilterState.getD_dl_setDl (f : FilterState) {st : FirStage} {k : Nat} (hk : k < (f.dl st).length) (v : F64) :
    ((f.setDl ((f.dl st).set k v) st).dl st).getD k f64Zero = v := by
  simp [hk]

/-- Any other delay-line element reads as before. -/
theorem FilterState.getD_dl_setDl_of_ne (f : FilterState) {st st' : FirStage} {k j : Nat} (h : (st', j) ≠ (st, k))
    (v : F64) : ((f.setDl ((f.dl st).set k v) st).dl st').getD j f64Zero = (f.dl st').getD j f64Zero := by
  by_cases hst : st' = st
  · subst hst
    have hj : j ≠ k := mt (congrArg (Prod.mk st')) h
    simp [hj.symm]
  · simp [hst]

/-- Any other delay register reads as before. -/
theorem FilterState.get_bq_setBq_of_ne (f : FilterState) {b b' : BiquadStage} {r r' : BqReg} (h : (b', r') ≠ (b, r))
    (v : F64) : ((f.setBq ((f.bq b).set v r) b).bq b').get r' = (f.bq b').get r' := by
  by_cases hb : b' = b
  · subst hb
    have hr : r' ≠ r := mt (congrArg (Prod.mk b')) h
    simp [hr]
  · simp [hb]

/-- Settles O34: `State.writeDelay` stores or ignores by the current length, as the read does. -/
theorem delayLineReloadAndWindow : Obligations.DelayLineReloadAndWindow := by
  intro s st k a v hm hlen hk haddr
  simp only [← State.readItem_eq_value]
  refine ⟨_, exec_wr64_item (i := .delay st k) hk haddr hm v, fun hlt => ?_, fun hge => ?_⟩
  · have hlt : k < (s.act.fir st).delayLen := hlt
    have hw : s.writeItem (.delay st k) v = { s with filt := s.filt.setDl ((s.filt.dl st).set k v) st } := if_pos hlt
    rw [hw]
    refine ⟨rfl, ?_, fun st' j hj => ?_, fun b r => ?_⟩
    · rw [State.readItem, if_pos hlt]
      exact s.filt.getD_dl_setDl (hlt.trans_eq hlen.symm) v
    · simp only [State.readItem, s.filt.getD_dl_setDl_of_ne hj]
    · simp only [State.readItem, FilterState.bq_setDl]
  · have hge : ¬ k < (s.act.fir st).delayLen := not_lt.mpr hge
    refine ⟨if_neg hge, (exec_rd64_item (i := .delay st k) hk haddr hm).trans ?_⟩
    rw [State.readItem, if_neg hge]

/-- Settles O35: the register's own stage and place only. -/
theorem biquadRegisterReload : Obligations.BiquadRegisterReload := by
  intro s b r a v hm haddr
  simp only [← State.readItem_eq_value]
  refine ⟨_, exec_wr64_item (i := .bqReg b r) trivial haddr hm v, rfl, ?_, fun b' r' hne => ?_, ?_⟩
  · simp [State.readItem, State.writeItem]
  · exact s.filt.get_bq_setBq_of_ne hne v
  · cases b <;> exact ⟨rfl, rfl⟩

/-- Settles O36: one stored word, in either mode. -/
theorem inBufWriteStoresOneElement : Obligations.InBufWriteStoresOneElement := fun s i _ v hi haddr =>
  ⟨_, exec_wr64_item (i := .inBuf i) hi haddr trivial v, rfl, s.memWord_storeWord _ v,
    fun b hb => s.memByte_storeWord_of_ne _ b v hb⟩

/-! ### Where a byte of the sample memories changes -/

/-- The effect of a performed command changes a byte only of PROCESS's outputs (R181). -/
theorem CommandEffect.memByte_eq {s u : State} {i : Instr} (hu : CommandEffect s i u) (a : Nat) :
    u.memByte a = s.memByte a ∨ ∃ n dyn, i = .process n dyn ∧ s.mode = .idle ∧ 1 ≤ n.toNat ∧
      n.toNat ≤ s.params.nMax ∧ outBase ≤ a ∧ a < outBase + 8 * n.toNat := by
  cases hu with
  | processed n dyn hm h1 h2 =>
    by_cases ha : a < outBase ∨ outBase + 8 * n.toNat ≤ a
    · exact .inl (s.processBlock_memByte n.toNat a dyn ha)
    · exact .inr ⟨n, dyn, rfl, hm, h1, h2, by omega, by omega⟩
  | nop | applied | started | stopRequested | resultDropped | flushed | peakCleared => exact .inl rfl
  | rejected | startRefused | flushRefused | processRefused | processBadLength => exact .inl rfl

/-- A full recording takes no sample (R336). -/
theorem recordLoop_full (s : State) (i : Nat) (d : Option Nat) (y : List F64) (h : s.params.recCap ≤ s.recLen.toNat) :
    (recordLoop s i d y).1 = s := by
  induction y generalizing i d with
  | nil => rfl
  | cons b y ih =>
    rw [recordLoop, if_neg (not_lt.mpr h)]
    exact ih _ _

/-- A block cycle changes a byte only of the samples it appends to the recording (R336). -/
theorem State.blockCycle_memByte (s : State) (o : Offer) (a : Nat)
    (ha : a < recBase + 8 * s.recLen.toNat ∨ recBase + 8 * (s.blockCycle o).recLen.toNat ≤ a) :
    (s.blockCycle o).memByte a = s.memByte a := by
  rw [State.blockCycle_recLen] at ha
  generalize hu : ((s.noteOfferFlags o).runBlock true (s.offerSamples o)).2.render (s.cycleOutput o) = u at ha
  have hmem : u.mem = s.mem ∧ u.powerOns = s.powerOns ∧ u.recLen = s.recLen := by simp [← hu]
  obtain ⟨hmem, hpow, hrec⟩ := hmem
  have hloop : (recordLoop u 0 none (s.cycleOutput o)).1.memByte a = u.memByte a := by
    rcases le_total u.recLen.toNat u.params.recCap with hle | hfull
    · exact recordLoop_memByte u 0 none _ a hle (hrec ▸ ha)
    · rw [recordLoop_full u 0 none _ hfull]
  calc (s.blockCycle o).memByte a
      = (recordLoop u 0 none (s.cycleOutput o)).1.memByte a :=
        State.memByte_congr (by rw [State.blockCycle_mem, hu]) (by simp [hpow]) a
    _ = u.memByte a := hloop
    _ = s.memByte a := State.memByte_congr hmem hpow a

/-- A permitted write changes a byte only of the element of `IN_BUF` it stores (R188). -/
theorem State.writeItem_memByte (s : State) (it : Item) (v : Word) (a : Nat) :
    (s.writeItem it v).memByte a = s.memByte a ∨ ∃ i, it = .inBuf i ∧ inBase + 8 * i ≤ a ∧ a < inBase + 8 * i + 8 := by
  cases it with
  | inBuf i =>
    by_cases ha : a < inBase + 8 * i ∨ inBase + 8 * i + 8 ≤ a
    · exact .inl (s.memByte_storeWord_of_ne _ a v ha)
    · exact .inr ⟨i, rfl, by omega, by omega⟩
  | cmd =>
    simp only [State.writeItem, State.writeCmd]
    split
    · exact .inl rfl
    · split <;> exact .inl rfl
  | blockLen =>
    simp only [State.writeItem, State.writeBlockLen]
    split <;> exact .inl rfl
  | delay st k =>
    simp only [State.writeItem, State.writeDelay]
    split <;> exact .inl rfl
  | _ => exact .inl rfl

/-- A misaligned write changes no byte (R107). -/
theorem aligned_of_memByte_ne {s t : State} {addr : BitVec 32} {v : Word} {a : Nat} (hi : HostIssues s (.wr64 addr v))
    (hs : step s = .next t) (hne : t.memByte a ≠ s.memByte a) : addr.toNat % 8 = 0 := by
  by_contra hmis
  rw [stepIssuesTheHostTransaction s _ hi, (misalignedTransactionIsRecorded s.popped addr v hmis).2] at hs
  cases hs
  exact hne rfl

/-- A reset is the external one, or does what RESET does (R173, R176, R410). -/
theorem step_of_resetHappens {s : State} (h : ResetHappens s) :
    s.schedule.head? = some .powerOn ∨ step s = .next s.popped.softReset := by
  rcases h with hi | hp | hpow
  · exact .inr ((stepIssuesTheHostTransaction s _ hi).trans (cmdWriteHandsTheWordOver s.popped _))
  · exact .inr (stepPerformsTheHeldCommand s _ hp)
  · exact .inl hpow

/-- Settles O59: each effect of a step by its own frame, and a reset that is not the external one stores nothing. -/
theorem memoryChangesOnlyWhereItIsStored : Obligations.MemoryChangesOnlyWhereItIsStored := by
  intro s t a hs hne
  rcases step_effect hs with he | ⟨hr, -⟩
  · cases he with
    | performed hp hu =>
      obtain ⟨n, dyn, rfl, hm, h1, h2, hlo, hhi⟩ := (hu.memByte_eq a).resolve_left hne
      exact .inl ⟨n, dyn, hp, hm, h1, h2, hlo, hhi⟩
    | @cycled o rest hrun =>
      have ha := mt ((s.popped.consume o rest).blockCycle_memByte o a) hne
      rw [not_or, not_lt, not_le] at ha
      exact .inr (.inl ⟨o, rest, hrun, ha⟩)
    | @written addr v _ hi hm =>
      obtain ⟨i, rfl, hlo, hhi⟩ := (s.popped.writeItem_memByte _ v a).resolve_left hne
      obtain ⟨hex, haddr⟩ := exists_and_addr_of_itemAt (aligned_of_memByte_ne hi hs hne) hm
      rw [Item.addr] at haddr
      rw [inBase, haddr] at hlo hhi
      exact .inr (.inr (.inl ⟨i, addr, v, hi, hex, haddr.symm, hlo, hhi⟩))
    | illegal | offerDropped | engineRests | offerConsumed | offerWaits => exact absurd rfl hne
    | read | readRefused | writeRefused => exact absurd rfl hne
  · rcases step_of_resetHappens hr with hpow | hsoft
    · exact .inr (.inr (.inr hpow))
    · rw [hsoft] at hs
      cases hs
      exact absurd rfl hne

end Sys2Proof.Machine

/-!
PROOFS of the family "FIR stage": the output of a sample, and the tap state buffer after a sample and after a block.
-/

namespace Sys2Proof.Machine

/-- The accumulation over the older taps, as a fold over their ages (R242). -/
theorem firAccum_eq_foldl (acc : F64) (hs ds : List F64) (hlen : ds.length ≤ hs.length) :
    firAccum acc hs ds =
      (List.range ds.length).foldl (fun acc k => fadd acc (fmul (hs.getD k 0) (ds.getD k 0))) acc := by
  induction ds generalizing acc hs with
  | nil => cases hs <;> rfl
  | cons d ds ih =>
    cases hs with
    | nil => simp at hlen
    | cons h hs =>
      rw [firAccum, ih _ _ (Nat.le_of_succ_le_succ hlen), List.length_cons, List.range_succ_eq_map, List.foldl_cons,
        List.foldl_map]
      rfl

/-- The older tap of age `k + 1` is the coefficient `h[k + 1]` (R240, R241). -/
theorem getD_olderTaps (h : List F64) {n k : Nat} (hk : k < n - 1) :
    ((h.take n).drop 1).getD k 0 = h.getD (k + 1) 0 := by
  simp [List.getD_eq_getElem?_getD, List.getElem?_take_of_lt, Nat.add_lt_of_lt_sub hk]

/-- The output of a sample, as a fold over the ages of the older taps (R242). -/
theorem firOutput_eq_foldl (c : FirCfg) (dl : List F64) (x : F64) (hcoef : c.taps.toNat ≤ c.h.length)
    (hdl : dl.length = c.taps.toNat - 1) :
    firOutput c dl x =
      (List.range (c.taps.toNat - 1)).foldl (fun acc k => fadd acc (fmul (c.h.getD (k + 1) 0) (dl.getD k 0)))
        (fmul (c.h.getD 0 0) x) := by
  have holder : dl.length ≤ ((c.h.take c.taps.toNat).drop 1).length := by simp [hdl, hcoef]
  rw [firOutput, firAccum_eq_foldl _ _ _ holder, hdl]
  refine List.foldl_ext _ _ _ fun acc k hk => ?_
  rw [getD_olderTaps c.h (List.mem_range.mp hk)]

/-- The shift puts the new input before the older ones (R243). -/
theorem firShift_getD (c : FirCfg) (dl : List F64) (x : F64) {k : Nat} (hk : k < c.delayLen) :
    (firShift c dl x).getD k 0 = (x :: dl).getD k 0 := by
  simp [firShift, List.getD_eq_getElem?_getD, List.getElem?_take_of_lt hk]

/-- Settles O37: the accumulation is the fold over the ages, and the shift is the new input before the older ones. -/
theorem firSampleFollowsTheRule : Obligations.FirSampleFollowsTheRule := by
  intro c dl x _ hcoef hdl
  refine ⟨firOutput_eq_foldl c dl x hcoef hdl, firShift_length c dl x hdl, fun h2 => ?_, fun k hk1 hk => ?_⟩
  · exact firShift_getD c dl x (Nat.sub_pos_of_lt h2)
  · obtain ⟨k, rfl⟩ := Nat.exists_eq_add_of_le' hk1
    exact firShift_getD c dl x hk

/-- Settles O38, by induction on the block: each shift puts its input before the older ones and drops the oldest. -/
theorem firBlockKeepsTheNewestInputs : Obligations.FirBlockKeepsTheNewestInputs := by
  intro c dl x hdl
  induction x generalizing dl with
  | nil => exact (List.take_of_length_le hdl.le).symm
  | cons a x ih =>
    calc (firBlock c dl (a :: x)).2
        = (x.reverse ++ (a :: dl).take (c.taps.toNat - 1)).take (c.taps.toNat - 1) :=
          ih _ (firShift_length c dl a hdl)
      _ = ((a :: x).reverse ++ dl).take (c.taps.toNat - 1) := by
        simp [List.take_append, List.take_take]

end Sys2Proof.Machine

/-!
PROOFS of the family "Biquad stage": the output and both new delay registers of a sample, and the sample that a
stage of zero gain passes.
-/

namespace Sys2Proof.Machine

/-- Settles O39: the two results of the sample are the operations of R262 themselves. -/
theorem biquadSampleFollowsTheRule : Obligations.BiquadSampleFollowsTheRule :=
  fun _ _ _ => ⟨rfl, rfl, rfl⟩

/-- With `b0 = 1.0` and a zero in `s1` a finite sample other than `-0.0` is its own output: the product is the
sample (R14), and adding a zero to it keeps it. -/
theorem biquadSample_output_of_zero_gain {c : BiquadCfg} {st : BqState} {x : F64} (hb0 : c.b0 = f64One)
    (hs1 : isZero st.s1 = true) (hx : isFinite x = true) (hneg : x ≠ 0x8000000000000000#64) :
    (biquadSample c st x).1 = x := by
  calc (biquadSample c st x).1 = fadd (fmul c.b0 x) st.s1 := (biquadSampleFollowsTheRule c st x).1
    _ = fadd x st.s1 := by rw [hb0, fmul_one_left hx]
    _ = x := fadd_zero_right hx hneg hs1

/-- Settles O40: the output is the sample, so each new delay register subtracts a finite product from itself. -/
theorem zeroGainBiquadPassesFiniteSamples : Obligations.ZeroGainBiquadPassesFiniteSamples := by
  intro c st x hb0 hb1 hb2 hs1 hs2 hx hneg hp1 hp2
  obtain ⟨-, hnew1, hnew2⟩ := biquadSampleFollowsTheRule c st x
  have hy : (biquadSample c st x).1 = x := biquadSample_output_of_zero_gain hb0 hs1 hx hneg
  have hzero : isZero f64Zero = true := by decide
  refine ⟨hy, ?_, ?_⟩
  · rw [hnew1, hy, ← hb1, fsub_self_eq hp1]
    exact isZero_fadd hzero hs2
  · rw [hnew2, hy, ← hb2, fsub_self_eq hp2]
    exact hzero

end Sys2Proof.Machine

/-!
PROOFS of the family "chain and configuration": VALIDATE's order, a COMMIT of unchanged tap counts, the chain sample
by sample and block by block, `FINISH_SAMPLE`, and who changes the filter state.
-/

namespace Sys2Proof.Machine

/-! ### VALIDATE (R282) -/

/-- The value a coefficient list has beyond its end is finite (R14). -/
theorem isFinite_f64Zero : isFinite f64Zero = true := by decide

/-- No coefficient is found when all are finite. -/
theorem firstNonFinite_eq_none_iff (n : Nat) (l : List F64) :
    firstNonFinite n l = none ↔ ∀ c ∈ l, isFinite c = true := by
  induction l generalizing n with
  | nil => simp [firstNonFinite]
  | cons c l ih => cases hc : isFinite c <;> simp [firstNonFinite, hc, ih]

/-- The coefficient found is the one before which all are finite. -/
theorem firstNonFinite_eq_some (n : Nat) {l : List F64} {k : Nat} (hk : isFinite (l.getD k f64Zero) = false)
    (hlt : ∀ j, j < k → isFinite (l.getD j f64Zero) = true) : firstNonFinite n l = some (n + k) := by
  induction l generalizing n k with
  | nil => exact absurd isFinite_f64Zero (by simpa using hk)
  | cons c l ih =>
    cases k with
    | zero =>
      have hc : isFinite c = false := hk
      simp [firstNonFinite, hc]
    | succ k =>
      have hc : isFinite c = true := hlt 0 k.succ_pos
      rw [firstNonFinite, if_pos hc, ih (n + 1) hk fun j hj => hlt (j + 1) (Nat.succ_lt_succ hj)]
      exact congrArg some (by omega)

/-- Below the tap count the list of the first taps is the list of all (R282). -/
theorem getD_take {l : List F64} {n k : Nat} (h : k < n) : (l.take n).getD k f64Zero = l.getD k f64Zero := by
  simp [List.getD_eq_getElem?_getD, List.getElem?_take_of_lt h]

/-- The first taps are finite when each tap below the count is; beyond the list's end a tap reads as `+0.0`. -/
theorem forall_mem_take_isFinite_iff (l : List F64) (n : Nat) :
    (∀ c ∈ l.take n, isFinite c = true) ↔ ∀ k, k < n → isFinite (l.getD k f64Zero) = true := by
  constructor
  · intro h k hk
    by_cases hl : k < l.length
    · rw [List.getD_eq_getElem _ _ hl]
      exact h _ (List.mem_take_iff_getElem.mpr ⟨k, lt_min hk hl, rfl⟩)
    · rw [List.getD_eq_default _ _ (not_lt.mp hl)]
      exact isFinite_f64Zero
  · intro h c hc
    obtain ⟨k, hk, rfl⟩ := List.mem_take_iff_getElem.mp hc
    obtain ⟨hn, hl⟩ := lt_min_iff.mp hk
    rw [← List.getD_eq_getElem l f64Zero hl]
    exact h k hn

/-- A FIR stage's check reports its first failing item (R282). -/
theorem validateFir_of_fails {p : Params} {f : FirCfg} {info : BitVec 32} (h : FirFails p f info) (loc : BitVec 8) :
    validateFir p loc f = some ⟨loc, info⟩ := by
  rcases h with ⟨hbad, rfl⟩ | ⟨h1, h2, k, hk, hnf, hlt, rfl⟩
  · exact if_pos hbad
  · have hfound : firstNonFinite 0 (f.h.take f.taps.toNat) = some (0 + k) :=
      firstNonFinite_eq_some 0 (by rwa [getD_take hk]) fun j hj => by rw [getD_take (hj.trans hk), hlt j hj]
    rw [validateFir, if_neg (by omega), hfound, Nat.zero_add]
    rfl

theorem validateFir_eq_none_iff (p : Params) (loc : BitVec 8) (f : FirCfg) :
    validateFir p loc f = none ↔ FirPasses p f := by
  unfold validateFir FirPasses
  split
  · rename_i hbad
    simp only [reduceCtorEq, false_iff]
    omega
  · rename_i hok
    rw [Option.map_eq_none_iff, firstNonFinite_eq_none_iff, forall_mem_take_isFinite_iff]
    have h1 : 1 ≤ f.taps.toNat := by omega
    have h2 : f.taps.toNat ≤ p.tMax := by omega
    simp [h1, h2]

/-- A biquad stage's check reports its first non-finite coefficient (R282). -/
theorem validateBiquad_of_fails {b : BiquadCfg} {info : BitVec 32} (h : BiquadFails b info) (loc : BitVec 8) :
    validateBiquad loc b = some ⟨loc, info⟩ := by
  obtain ⟨k, -, hnf, hlt, rfl⟩ := h
  rw [validateBiquad, firstNonFinite_eq_some 0 hnf hlt, Nat.zero_add]
  rfl

theorem validateBiquad_eq_none_iff (loc : BitVec 8) (b : BiquadCfg) :
    validateBiquad loc b = none ↔ BiquadPasses b := by
  rw [validateBiquad, Option.map_eq_none_iff, firstNonFinite_eq_none_iff]
  simp [BiquadPasses]

/-- The check of the dynamics parameters reports the first failing one (R282). -/
theorem validateDyn_of_fails {c : Cfg} {info : BitVec 32} (h : DynFails c info) : validateDyn c = some ⟨5, info⟩ := by
  rcases h with ⟨ht, rfl⟩ | ⟨ht, hr, rfl⟩ | ⟨ht, hr, hpos, hk, rfl⟩
  · simp [validateDyn, ht]
  · rw [← Bool.and_eq_true, Bool.not_eq_true] at hr
    simp [validateDyn, ht, hr]
  · rw [← Bool.and_eq_true, Bool.not_eq_true] at hk
    simp [validateDyn, ht, hr, hpos, hk]

/-- A check is accepted when its condition holds and what comes after it is accepted. -/
theorem check_eq_none_iff {b : Bool} {f : CfgFailure} {rest : Option CfgFailure} :
    (if !b then some f else rest) = none ↔ b = true ∧ rest = none := by
  cases b <;> simp

theorem validateDyn_eq_none_iff (c : Cfg) : validateDyn c = none ↔ DynPasses c := by
  simp only [validateDyn, check_eq_none_iff, Bool.and_eq_true, and_true, and_assoc, DynPasses]

/-- VALIDATE accepts what every check accepts. -/
theorem validate_eq_none_iff (p : Params) (c : Cfg) :
    validate p c = none ↔ FirPasses p c.fir0 ∧ FirPasses p c.fir1 ∧ BiquadPasses c.band1 ∧ BiquadPasses c.band2 ∧
      BiquadPasses c.band3 ∧ DynPasses c := by
  simp only [validate, Option.or_eq_none_iff, validateFir_eq_none_iff, validateBiquad_eq_none_iff,
    validateDyn_eq_none_iff, and_assoc]

/-- Settles O18: each check answers as its rule says, and `Option.or` keeps the first answer. -/
theorem validateReportsTheFirstFailure : Obligations.ValidateReportsTheFirstFailure := by
  intro p c info
  have fir {loc f} : FirPasses p f → validateFir p loc f = none := (validateFir_eq_none_iff p loc f).mpr
  have biquad {loc b} : BiquadPasses b → validateBiquad loc b = none := (validateBiquad_eq_none_iff loc b).mpr
  refine ⟨fun h => ?_, fun h0 h => ?_, fun h0 h1 h => ?_, fun h0 h1 h2 h => ?_, fun h0 h1 h2 h3 h => ?_,
    fun h0 h1 h2 h3 h4 h => ?_, validate_eq_none_iff p c⟩
  · simp [validate, validateFir_of_fails h]
  · simp [validate, fir h0, validateFir_of_fails h]
  · simp [validate, fir h0, fir h1, validateBiquad_of_fails h]
  · simp [validate, fir h0, fir h1, biquad h2, validateBiquad_of_fails h]
  · simp [validate, fir h0, fir h1, biquad h2, biquad h3, validateBiquad_of_fails h]
  · simp [validate, fir h0, fir h1, biquad h2, biquad h3, biquad h4, validateDyn_of_fails h]

/-! ### COMMIT of unchanged tap counts (R287) -/

/-- COMMIT at unchanged tap counts makes the shadow configuration active and changes nothing else (R283). -/
theorem State.applyShadow_of_taps_eq {s : State} (h0 : s.sh.fir0.taps = s.act.fir0.taps)
    (h1 : s.sh.fir1.taps = s.act.fir1.taps) : s.applyShadow = { s with act := s.sh } := by
  simp only [State.applyShadow, retainOrZero_of_eq h0, retainOrZero_of_eq h1]

/-- Settles O19: a rejected configuration changes the error record only, an accepted one of the same tap counts `ACT`
only. -/
theorem recommitKeepsTheDelayLines : Obligations.RecommitKeepsTheDelayLines := by
  intro s
  cases hv : validate s.params s.sh with
  | some f =>
    exact ⟨_, execCommit_rejected s f hv, fun _ => ⟨rfl, rfl⟩, fun _ _ => ⟨rfl, nofun⟩⟩
  | none =>
    refine ⟨_, execCommit_applied s hv, fun heq => ?_, fun h0 h1 => ?_⟩
    · rw [State.applyShadow_of_taps_eq (by rw [heq]) (by rw [heq])]
      exact ⟨heq, rfl⟩
    · rw [State.applyShadow_of_taps_eq h0 h1]
      exact ⟨rfl, fun _ => rfl⟩

/-! ### The chain sample by sample and block by block (R281, R286) -/

/-- Settles O41, by induction from the block's end: a last sample runs through the five stages from the state the
block before it left. -/
theorem sampleMajorEqualsStageMajor : Obligations.SampleMajorEqualsStageMajor := by
  intro c f x
  induction x using List.reverseRecOn with
  | nil => rfl
  | append_singleton x u ih =>
    rw [chainBlock_append, List.foldl_append, ← ih]
    rfl

/-- The output of a block depends on the active configuration and the filter state only. -/
theorem State.runBlock_output_congr {s t : State} (ha : t.act = s.act) (hf : t.filt = s.filt) (dyn : Bool)
    (x : List F64) : (t.runBlock dyn x).1 = (s.runBlock dyn x).1 := by
  rw [State.runBlock_output, State.runBlock_output, ha, hf]

/-- The output of a block in two parts: the second starts from what the first left (R286). -/
theorem State.runBlock_output_append (s : State) (dyn : Bool) (x y : List F64) :
    (s.runBlock dyn (x ++ y)).1 = (s.runBlock dyn x).1 ++ ((s.runBlock dyn x).2.runBlock dyn y).1 := by
  simp only [State.runBlock_output, State.runBlock_act, State.runBlock_filt, chainBlock_append]
  cases dyn <;> simp

@[simp] theorem State.processBlock_peak (s : State) (n : Nat) (dyn : Bool) :
    (s.processBlock n dyn).peak = (s.runBlock dyn (s.memWords inBase n)).2.peak := by simp [State.processBlock]

/-- PROCESS of a signal `x` that the Host stored in `IN_BUF` leads from `s` to `t`: the block `x` was run from `s`
(R181). -/
structure Processes (s : State) (n : BitVec 16) (dyn : Bool) (x : List F64) (t : State) : Prop where
  next : exec (.process n dyn) (s.storeWords inBase x) = .next t
  outputs : t.memWords outBase n.toNat = (s.runBlock dyn x).1
  filt : t.filt = (s.runBlock dyn x).2.filt
  peak : t.peak = (s.runBlock dyn x).1.foldl peakStep s.peak
  act : t.act = s.act
  mode : t.mode = s.mode
  params : t.params = s.params

/-- PROCESS of a signal of legal length goes on while IDLE (R181). -/
theorem exists_processes {s : State} {n : BitVec 16} {x : List F64} (hm : s.mode = .idle) (h1 : 1 ≤ n.toNat)
    (h2 : n.toNat ≤ s.params.nMax) (hx : x.length = n.toNat) (dyn : Bool) : ∃ t, Processes s n dyn x t := by
  have hin : (s.storeWords inBase x).memWords inBase n.toNat = x := hx ▸ s.memWords_storeWords inBase x
  have hout : ((s.storeWords inBase x).runBlock dyn x).1 = (s.runBlock dyn x).1 :=
    State.runBlock_output_congr (s.storeWords_act inBase x) (s.storeWords_filt inBase x) dyn x
  refine ⟨((s.storeWords inBase x).processBlock n.toNat dyn).finishCommand, ?_⟩
  constructor
  case next => exact execProcess_idle (s.storeWords inBase x) n dyn hm h1 h2
  case outputs =>
    calc ((s.storeWords inBase x).processBlock n.toNat dyn).finishCommand.memWords outBase n.toNat
        = ((s.storeWords inBase x).processBlock n.toNat dyn).memWords outBase n.toNat :=
          State.memWords_congr (State.finishCommand_mem _) (State.finishCommand_powerOns _) _ _
      _ = (s.runBlock dyn x).1 := by rw [State.processBlock_memWords, hin, hout]
  case peak => rw [State.finishCommand_peak, State.processBlock_peak, hin, State.runBlock_peak, hout, s.storeWords_peak]
  all_goals simp [hin]

/-- Settles O42: the second PROCESS starts from the filter state and the `PEAK` the first one leaves. -/
theorem blockSplitEquivalence : Obligations.BlockSplitEquivalence := by
  intro s n m dyn x y hm hn1 hm1 hle hx hy
  obtain ⟨-, hmax, -⟩ := params_bounds s.params
  have hsum : (n + m).toNat = n.toNat + m.toNat := BitVec.toNat_add_of_lt (by omega)
  obtain ⟨t1, h1⟩ := exists_processes hm hn1 (by omega) hx dyn
  obtain ⟨t2, h2⟩ := exists_processes (h1.mode.trans hm) hm1 (by rw [h1.params]; omega) hy dyn
  obtain ⟨t, h⟩ := exists_processes (n := n + m) (x := x ++ y) hm (by omega) (by omega) (by simp [hx, hy, hsum]) dyn
  have houts : (s.runBlock dyn (x ++ y)).1 = (s.runBlock dyn x).1 ++ (t1.runBlock dyn y).1 := by
    rw [s.runBlock_output_append, State.runBlock_output_congr (h1.act.trans (s.runBlock_act dyn x).symm) h1.filt]
  have hfilt : (s.runBlock dyn (x ++ y)).2.filt = (t1.runBlock dyn y).2.filt := by
    simp only [State.runBlock_filt, chainBlock_append, h1.act, h1.filt]
  refine ⟨t1, t2, t, h1.next, h2.next, h.next, ?_, ?_, ?_⟩
  · exact h.outputs.trans (houts.trans (congrArg₂ _ h1.outputs.symm h2.outputs.symm))
  · exact h.filt.trans (hfilt.trans h2.filt.symm)
  · rw [h.peak, houts, List.foldl_append, ← h1.peak, ← h2.peak]

/-! ### `FINISH_SAMPLE` (R289) -/

/-- A conditional error, by the condition as a proposition. -/
theorem State.raiseIf_of_iff (s : State) {p : Bool} {P : Prop} [Decidable P] (h : p = true ↔ P) (c : Cause)
    (info : BitVec 32) : s.raiseIf p c info = if P then s.raise c 0 info else s := if_congr h rfl rfl

/-- Settles O45: each conditional error by its condition, and neither touches the `PEAK` that is compared. -/
theorem finishSampleFollowsTheRule : Obligations.FinishSampleFollowsTheRule := by
  intro s dyn i y z g hzg
  have hrule : (if dyn then dynSample s.act y else (y, f64One)) = (z, g) := hzg.symm
  refine ⟨?_, ?_, fun _ => rfl⟩
  · simp only [finishSample, hrule]
  · have h12 : (dyn && !fgt g f64Zero) = true ↔ dyn = true ∧ fgt g f64Zero = false := by simp
    have h13 : (!isFinite z) = true ↔ isFinite z = false := by simp
    simp only [finishSample, hrule]
    rw [State.notePeak, State.raiseIf_peak, State.raiseIf_peak, State.raiseIf_of_iff _ h12,
      State.raiseIf_of_iff _ h13]
    rfl

/-! ### Who changes the filter state (R285) -/

/-- The effect of a performed command leaves the filter state alone, unless it is a permitted START, FLUSH or PROCESS
or an accepted COMMIT. -/
theorem CommandEffect.filt_eq {s u : State} {i : Instr} (hu : CommandEffect s i u) :
    u.filt = s.filt ∨
    (s.mode = .idle ∧ (i = .start ∨ (∃ mask, i = .flush mask) ∨ ∃ n dyn, i = .process n dyn)) ∨
    (i = .commit ∧ validate s.params s.sh = none ∧ u.filt = s.applyShadow.filt) := by
  cases hu with
  | started hm => exact .inr (.inl ⟨hm, .inl rfl⟩)
  | flushed mask hm => exact .inr (.inl ⟨hm, .inr (.inl ⟨mask, rfl⟩)⟩)
  | processed n dyn hm => exact .inr (.inl ⟨hm, .inr (.inr ⟨n, dyn, rfl⟩)⟩)
  | applied hv => exact .inr (.inr ⟨rfl, hv, rfl⟩)
  | nop | stopRequested | resultDropped | peakCleared => exact .inl rfl
  | rejected | startRefused | flushRefused | processRefused | processBadLength => exact .inl rfl

/-- A permitted write that is no reset leaves the filter state alone, unless its item is of it (R187). -/
theorem State.writeItem_filt (s : State) (it : Item) (v : Word) (hc : it = .cmd → v ≠ 0x0000000000000001#64) :
    (s.writeItem it v).filt = s.filt ∨ (∃ st k, it = .delay st k) ∨ ∃ b r, it = .bqReg b r := by
  cases it with
  | delay st k => exact .inr (.inl ⟨st, k, rfl⟩)
  | bqReg b r => exact .inr (.inr ⟨b, r, rfl⟩)
  | cmd =>
    left
    simp only [State.writeItem, State.writeCmd, if_neg (hc rfl)]
    split <;> rfl
  | blockLen =>
    left
    simp only [State.writeItem, State.writeBlockLen]
    split <;> rfl
  | _ => exact .inl rfl

/-- An item of the filter state is written while IDLE only (R111). -/
theorem idle_of_filter_write {it : Item} {m : Mode} (hd : (it.readOnly || it.writeDenied m) = false)
    (hf : (∃ st k, it = .delay st k) ∨ ∃ b r, it = .bqReg b r) : m = .idle := by
  cases m with
  | idle => rfl
  | running => rcases hf with ⟨st, k, rfl⟩ | ⟨b, r, rfl⟩ <;> cases hd

/-- Keeping the samples under the same tap count is part of what COMMIT does to a delay line (R283). -/
theorem ite_taps_eq_retainOrZero (new old : FirCfg) (dl : List F64) :
    (if new.taps = old.taps then dl else retainOrZero new old dl) = retainOrZero new old dl := by
  split
  · rename_i h
    exact (retainOrZero_of_eq h dl).symm
  · rfl

/-- COMMIT zeroes the delay lines whose tap count changes, and no other filter state (R283). -/
theorem State.applyShadow_filt_frame (s : State) :
    s.applyShadow.filt = { s.filt with
      dl0 := if s.sh.fir0.taps = s.act.fir0.taps then s.filt.dl0 else s.applyShadow.filt.dl0
      dl1 := if s.sh.fir1.taps = s.act.fir1.taps then s.filt.dl1 else s.applyShadow.filt.dl1 } := by
  simp only [State.applyShadow_filt, ite_taps_eq_retainOrZero]

/-- Settles O56: each effect of a step by what it does to the filter state. -/
theorem filterStateChangesOnlyByItsSixCauses : Obligations.FilterStateChangesOnlyByItsSixCauses := by
  intro s t hs hne
  rcases step_effect hs with he | ⟨hr, -⟩
  · cases he with
    | performed hp hu =>
      rcases hu.filt_eq with hf | ⟨hm, rfl | ⟨mask, rfl⟩ | ⟨n, dyn, rfl⟩⟩ | ⟨rfl, hv, hf⟩
      · exact absurd hf hne
      · exact .inr (.inr (.inl ⟨hm, hp⟩))
      · exact .inr (.inr (.inr (.inl ⟨hm, mask, hp⟩)))
      · exact .inr (.inl ⟨hm, n, dyn, hp⟩)
      · have hframe := hf.trans s.popped.applyShadow_filt_frame
        rw [← hf] at hframe
        have htaps : s.sh.fir0.taps ≠ s.act.fir0.taps ∨ s.sh.fir1.taps ≠ s.act.fir1.taps := by
          by_contra hc
          obtain ⟨h0, h1⟩ := not_or.mp hc
          have hsame := State.applyShadow_of_taps_eq (s := s.popped) (not_not.mp h0) (not_not.mp h1)
          exact hne (hf.trans (by rw [hsame]; rfl))
        exact .inr (.inr (.inr (.inr (.inl ⟨hp, hv, htaps, hframe⟩))))
    | cycled hrun => exact .inl ⟨_, _, hrun⟩
    | written hi hm hd hc =>
      have hitem := (s.popped.writeItem_filt _ _ hc).resolve_left hne
      exact .inr (.inr (.inr (.inr (.inr (.inl ⟨idle_of_filter_write hd hitem, _, _, _, hi, hm, hitem⟩)))))
    | illegal | offerDropped | engineRests | offerConsumed | offerWaits => exact absurd rfl hne
    | read | readRefused | writeRefused => exact absurd rfl hne
  · exact .inr (.inr (.inr (.inr (.inr (.inr hr)))))

end Sys2Proof.Machine

/-!
PROOFS of the family "dynamics": the gain in each of its three regions, and the reset parameters, whose gain is 1.0
for every finite sample.
-/

namespace Sys2Proof.Machine

/-! ### The three regions of the gain (R312) -/

/-- Below the knee the gain is 1.0. -/
theorem dynGain_of_below {c : Cfg} {m : F64} (hlo : flt m (kneeLo c) = true) : dynGain c m = f64One :=
  if_pos hlo

/-- Above the knee the gain follows the slope from the threshold. -/
theorem dynGain_of_above {c : Cfg} {m : F64} (hlo : flt m (kneeLo c) = false) (hhi : fgt m (kneeHi c) = true) :
    dynGain c m = fadd f64One (fmul (gainSlope c) (fsub m c.thr)) := by
  rw [dynGain, if_neg (ne_true_of_eq_false hlo), if_pos hhi]

/-- In the knee the gain is quadratic in the distance from its lower end, and a knee of width zero has gain 1.0. -/
theorem dynGain_of_knee {c : Cfg} {m : F64} (hlo : flt m (kneeLo c) = false) (hhi : fgt m (kneeHi c) = false) :
    dynGain c m = if feq c.knee f64Zero then f64One
      else fadd f64One (fdiv (fmul (gainSlope c) (fmul (fsub m (kneeLo c)) (fsub m (kneeLo c))))
        (fmul f64Two c.knee)) := by
  rw [dynGain, if_neg (ne_true_of_eq_false hlo), if_neg (ne_true_of_eq_false hhi)]

/-- Settles O43: the gain by its region, and the output is the quotient. -/
theorem dynamicsFollowsTheThreeRegions : Obligations.DynamicsFollowsTheThreeRegions :=
  fun _ _ => ⟨rfl, dynGain_of_below, dynGain_of_above, dynGain_of_knee⟩

/-! ### Subtracting numbers of one sign (R14) -/

@[simp] theorem isFinite_fneg (x : F64) : isFinite (fneg x) = isFinite x := by
  rw [Bool.eq_iff_iff, isFinite_iff, isFinite_iff, fMag_fneg]

/-- The exact sum of finite numbers of opposite signs is no larger than one of the two, so it rounds to a finite
number. -/
theorem isFinite_addFinite_of_fSign_ne {a b : F64} (ha : isFinite a = true) (hb : isFinite b = true)
    (hs : fSign a ≠ fSign b) : isFinite (addFinite a b) = true := by
  simp only [addFinite, if_neg hs]
  split
  · exact isFinite_roundPack a _ _ (fScale a - min (fScale a) (fScale b)) _ ha (Nat.sub_le _ _) (by omega)
  · split
    · exact isFinite_roundPack b _ _ (fScale b - min (fScale a) (fScale b)) _ hb (Nat.sub_le _ _) (by omega)
    · decide

/-- The difference of two finite numbers of the same sign is finite. -/
theorem isFinite_fsub_of_fSign_eq {a b : F64} (ha : isFinite a = true) (hb : isFinite b = true)
    (hs : fSign a = fSign b) : isFinite (fsub a b) = true := by
  have hnb : isFinite (fneg b) = true := by rwa [isFinite_fneg]
  unfold fsub addWith
  rw [isNaN_of_isFinite ha, isInf_of_isFinite ha, isNaN_of_isFinite hnb, isInf_of_isFinite hnb]
  simp only [Bool.or_self, Bool.false_eq_true, if_false]
  split
  · exact isFinite_of_isZero (by cases fSign a && fSign (fneg b) <;> decide)
  · split
    · exact hnb
    · split
      · exact ha
      · exact isFinite_addFinite_of_fSign_ne ha hnb (by simp [hs])

/-! ### The reset parameters (R54, R315) -/

/-- A ratio of 1.0 has slope `+0.0`. -/
theorem gainSlope_of_ratio_one {c : Cfg} (hr : c.ratio = f64One) : gainSlope c = f64Zero := by
  have h1 : isFinite f64One = true := by decide
  rw [gainSlope, hr, fdiv_one_right h1, fsub_self_eq h1]

/-- With the reset parameters every finite magnitude has gain 1.0: above the threshold the slope `+0.0` multiplies a
finite difference, and the knee has width zero. -/
theorem dynGain_of_reset_params {c : Cfg} {m : F64} (ht : c.thr = f64One) (hr : c.ratio = f64One)
    (hk : c.knee = f64Zero) (hm : isFinite m = true) (hsm : fSign m = false) : dynGain c m = f64One := by
  cases hlo : flt m (kneeLo c) with
  | true => exact dynGain_of_below hlo
  | false =>
    cases hhi : fgt m (kneeHi c) with
    | true =>
      have hdiff : isFinite (fsub m f64One) = true := isFinite_fsub_of_fSign_eq hm (by decide) hsm
      rw [dynGain_of_above hlo hhi, gainSlope_of_ratio_one hr, ht]
      exact fadd_zero_right (by decide) (by decide) (isZero_fmul_zero hdiff)
    | false =>
      rw [dynGain_of_knee hlo hhi, hk]
      exact if_pos (by decide)

/-- Settles O44: the gain is 1.0, and a finite sample divided by 1.0 is the sample. -/
theorem resetDynamicsIsTheIdentity : Obligations.ResetDynamicsIsTheIdentity := by
  intro c x ht hr hk hx
  have hgain : dynGain c (fabs x) = f64One :=
    dynGain_of_reset_params ht hr hk (by rwa [isFinite_fabs]) (fSign_fabs x)
  rw [dynSample, hgain, fdiv_one_right hx]
  rfl

end Sys2Proof.Machine

/-!
PROOFS of the family "streaming": an offer made, waiting and dropped; the block cycle as its parts in their order; the
recording by its loop; and what changes the mode.
-/

namespace Sys2Proof.Machine

/-! ### The recording (R336) -/

/-- A byte after recording is the one the loop leaves. -/
theorem State.record_memByte (s : State) (y : List F64) (a : Nat) :
    (s.record y).memByte a = (recordLoop s 0 none y).1.memByte a :=
  State.memByte_congr (s.record_mem y) (by simp) a

/-- A word after recording is the one the loop leaves. -/
theorem State.record_memWord (s : State) (y : List F64) (a : Nat) :
    (s.record y).memWord a = (recordLoop s 0 none y).1.memWord a :=
  State.memWord_congr (s.record_mem y) (by simp) a

/-- A block that fits is recorded whole, with no error. -/
theorem State.record_of_fits {s : State} {y : List F64} (h : s.recLen.toNat + y.length ≤ s.params.recCap) :
    s.record y = (recordLoop s 0 none y).1 := by
  rw [State.record_eq, recordLoop_dropped s 0 y (by omega), if_pos h]

/-- A block that does not fit raises cause 14 with the index of its first dropped sample. -/
theorem State.record_of_overflow {s : State} {y : List F64} (hs : s.recLen.toNat ≤ s.params.recCap)
    (h : s.params.recCap < s.recLen.toNat + y.length) :
    s.record y = (recordLoop s 0 none y).1.raise .recOverflow 0
      (BitVec.ofNat 32 (s.params.recCap - s.recLen.toNat)) := by
  rw [State.record_eq, recordLoop_dropped s 0 y hs, if_neg (not_le.mpr h), Nat.zero_add]

/-- Settles O48: what is stored is the loop's, and the error is raised by whether the block fits. -/
theorem recordingKeepsTheFirstSamples : Obligations.RecordingKeepsTheFirstSamples := by
  intro s y hs
  refine ⟨?_, fun i hi hc => ?_, fun a ha => ?_, fun hfit => ?_, fun hover => ?_⟩
  · rw [State.record_recLen, recordLoop_recLen s 0 none y hs]
  · exact (s.record_memWord y _).trans (recordLoop_memWord s 0 none y i hs hi hc)
  · rw [State.record_recLen] at ha
    exact (s.record_memByte y a).trans (recordLoop_memByte s 0 none y a hs ha)
  · rw [State.record_of_fits hfit]
    exact recordLoop_frame s 0 none y
  · rw [State.record_of_overflow hs hover]
    exact congrArg (State.raise · .recOverflow 0 _) (recordLoop_frame s 0 none y)

/-! ### The block cycle (R333) -/

/-- After an offer's flags are noted its cycle is that of an offer with no flag set, on the samples it processes. -/
theorem State.blockCycle_eq_flagless (s : State) (o : Offer) :
    s.blockCycle o = (s.noteOfferFlags o).blockCycle
      { samples := s.offerSamples o, ovr := false, udr := false, novalid := false } := rfl

/-- Settles O49: the flags are noted first, and the samples are silence or those offered. -/
theorem transportFaultsAreLogged : Obligations.TransportFaultsAreLogged := by
  intro s o
  refine ⟨rfl, fun hv => ?_, fun hn => ?_, s.blockCycle_mode o⟩
  · have hx : s.offerSamples o = o.samples := if_neg (by simp [hv])
    rw [s.blockCycle_eq_flagless o, hx]
  · have hx : s.offerSamples o = zeros s.blockLen.toNat := if_pos hn
    rw [s.blockCycle_eq_flagless o, hx]
    rfl

/-- The state in which a block cycle has rendered and recorded its block (R333). -/
def State.cycleRecorded (s : State) (o : Offer) : State :=
  let r := (s.noteOfferFlags o).runBlock true (s.offerSamples o)
  (r.2.render r.1).record r.1

@[simp] theorem State.cycleRecorded_mode (s : State) (o : Offer) : (s.cycleRecorded o).mode = s.mode := by
  simp [State.cycleRecorded]
@[simp] theorem State.cycleRecorded_stopReq (s : State) (o : Offer) : (s.cycleRecorded o).stopReq = s.stopReq := by
  simp [State.cycleRecorded]
@[simp] theorem State.cycleRecorded_blkCnt (s : State) (o : Offer) : (s.cycleRecorded o).blkCnt = s.blkCnt := by
  simp [State.cycleRecorded]
@[simp] theorem State.cycleRecorded_resultLen (s : State) (o : Offer) :
    (s.cycleRecorded o).resultLen = s.resultLen := by
  simp [State.cycleRecorded]

/-- A block cycle ends by counting its block, setting `BLOCK_DONE` and observing a requested stop (R333, R337). -/
theorem State.blockCycle_eq (s : State) (o : Offer) :
    s.blockCycle o = { s.cycleRecorded o with
      blkCnt := s.blkCnt + 1
      irqStatus :=
        if s.stopReq then (s.cycleRecorded o).irqStatus ||| 0x6#4 else (s.cycleRecorded o).irqStatus ||| 0x2#4
      mode := if s.stopReq then .idle else s.mode
      stopReq := false
      resultLen := if s.stopReq then (s.cycleRecorded o).recLen else s.resultLen } := by
  have hend : s.blockCycle o =
      (State.setIrq { s.cycleRecorded o with blkCnt := (s.cycleRecorded o).blkCnt + 1 } .blockDone).observeStop := rfl
  rw [hend]
  cases hstop : s.stopReq with
  | false => simp [State.observeStop, State.setIrq, IrqBit.mask, hstop]
  | true => simp [State.observeStop, State.setIrq, IrqBit.mask, hstop, BitVec.or_assoc]

/-- A cycle's block is finished from the state with the flags noted and the chain's filter state (R333). -/
theorem State.noteOfferFlags_runBlock (s : State) (o : Offer) (x : List F64) :
    (s.noteOfferFlags o).runBlock true x =
      finishBlock { s.noteOfferFlags o with filt := (chainBlock s.act s.filt x).2 } true 0
        (chainBlock s.act s.filt x).1 := by
  simp only [State.runBlock, State.noteOfferFlags_act s o, State.noteOfferFlags_filt s o]

/-- The Engine's step on a waiting offer of a running session is its block cycle (R332). -/
theorem step_of_runsBlockCycle {s : State} {o : Offer} {rest : List Offer} (h : RunsBlockCycle s o rest) :
    step s = .next ((s.popped.consume o rest).blockCycle o) := by
  obtain ⟨hmoves, hslot, hmode, hoffers, hwf⟩ := h
  have hadmit := admitOffer_next s.popped o ((s.popped.consume o rest).blockCycle o) hwf
  rw [step_moves s hmoves]
  simpa [engineStep, offerStep, State.popped, hslot, hmode, hoffers] using hadmit

/-- Settles O47: the cycle of the offer consumed is its block run and recorded, then its end. -/
theorem blockCycleRunsTheOffer : Obligations.BlockCycleRunsTheOffer := by
  intro s o rest h
  obtain ⟨-, -, hmode, -, hwf⟩ := id h
  let c := s.popped.consume o rest
  let r := (c.noteOfferFlags o).runBlock true (c.offerSamples o)
  have hrendered : r.2.rendered = s.rendered := by simp [r, c, State.popped]
  have hlength : r.1.length = s.blockLen.toNat := (State.runBlock_length _ _ _).trans (c.offerSamples_length o hwf)
  refine ⟨_, r.1, r.2, c.cycleRecorded o, step_of_runsBlockCycle h, c.noteOfferFlags_runBlock o _, ?_, hlength, ?_⟩
  · rw [← hrendered]
    rfl
  · rw [← hmode]
    exact c.blockCycle_eq o

/-! ### Offers made and dropped (R332, R340, R389) -/

/-- An offer made is consumed at once while IDLE with the slot empty, and else waits. -/
theorem step_of_offer {s : State} {o : Offer} (h : s.schedule.head? = some (.offer o))
    (hwf : o.wellFormed s.blockLen.toNat = true) :
    step s = .next (if s.mode = .idle ∧ s.slot = none then { s.popped with consumed := s.consumed ++ [o] }
      else { s.popped with offers := s.offers ++ [o] }) := by
  obtain ⟨rest, hs⟩ := List.head?_eq_some_iff.mp h
  have hpop : s.popped = { s with schedule := rest } := by simp [State.popped, hs]
  rw [step_offer s o rest hs, ← hpop]
  exact admitOffer_next s.popped o _ hwf

/-- Settles O50: the offer is dropped or waits by the slot. -/
theorem idleOfferIsDropped : Obligations.IdleOfferIsDropped := by
  intro s o h hwf hm
  rw [step_of_offer h hwf]
  exact ⟨fun hs => by rw [if_pos ⟨hm, hs⟩], fun hs => by rw [if_neg fun hc => hs hc.2]⟩

/-- The Engine with the slot empty takes the offers' step. -/
theorem step_of_slot_empty {s : State} (hm : EngineMoves s) (hs : s.slot = none) : step s = offerStep s.popped := by
  simp [step_moves s hm, engineStep, State.popped, hs]

/-- Settles O51: an offer made by the mode, a waiting one and none by the Engine's step. -/
theorem offerWaitsForTheEngine : Obligations.OfferWaitsForTheEngine := by
  refine ⟨fun s o h hwf hm => ?_, fun s o rest hmoves hs hm ho => ?_, fun s hmoves hs ho => ?_⟩
  · rw [step_of_offer h hwf, if_neg (by simp [hm])]
  · rw [step_of_slot_empty hmoves hs]
    simp [offerStep, State.popped, State.consume, hm, ho]
  · rw [step_of_slot_empty hmoves hs]
    simp [offerStep, State.popped, ho]

/-! ### Who changes the mode (R35, R330) -/

/-- The effect of a performed command leaves the mode alone, unless it is a permitted START. -/
theorem CommandEffect.mode_eq {s u : State} {i : Instr} (hu : CommandEffect s i u) :
    u.mode = s.mode ∨ (i = .start ∧ s.mode = .idle ∧ u.mode = .running) := by
  cases hu with
  | started hm => exact .inr ⟨rfl, hm, rfl⟩
  | processed n dyn => exact .inl (s.processBlock_mode n.toNat dyn)
  | nop | applied | stopRequested | resultDropped | flushed | peakCleared => exact .inl rfl
  | rejected | startRefused | flushRefused | processRefused | processBadLength => exact .inl rfl

/-- A permitted write that is no reset leaves the mode alone. -/
theorem State.writeItem_mode (s : State) (it : Item) (v : Word) (hc : it = .cmd → v ≠ 0x0000000000000001#64) :
    (s.writeItem it v).mode = s.mode := by
  cases it with
  | cmd =>
    simp only [State.writeItem, State.writeCmd, if_neg (hc rfl)]
    split <;> rfl
  | blockLen =>
    simp only [State.writeItem, State.writeBlockLen]
    split <;> rfl
  | delay st k =>
    simp only [State.writeItem, State.writeDelay]
    split <;> rfl
  | _ => rfl

/-- A step that is no reset leaves the mode alone, unless it is a START while IDLE or the block cycle that observes
the stop request. -/
theorem StepEffect.mode_eq {s t : State} (he : StepEffect s t) :
    t.mode = s.mode ∨ (Performs s .start ∧ s.mode = .idle ∧ t.mode = .running) ∨
    (s.stopReq = true ∧ (∃ o rest, RunsBlockCycle s o rest) ∧ t.mode = .idle) := by
  cases he with
  | performed hp hu =>
    rcases hu.mode_eq with hm | ⟨rfl, hi, hr⟩
    · exact .inl hm
    · exact .inr (.inl ⟨hp, hi, hr⟩)
  | @cycled o rest hrun =>
    have hmode := (s.popped.consume o rest).blockCycle_mode o
    cases hstop : s.stopReq with
    | false => exact .inl (hmode.trans (if_neg (by simp [State.popped, hstop])))
    | true => exact .inr (.inr ⟨rfl, ⟨o, rest, hrun⟩, hmode.trans (if_pos hstop)⟩)
  | written _ _ _ hc => exact .inl (s.popped.writeItem_mode _ _ hc)
  | illegal | offerDropped | engineRests | offerConsumed | offerWaits => exact .inl rfl
  | read | readRefused | writeRefused => exact .inl rfl

/-- A reset ends in IDLE (R411). -/
theorem ResetEffect.mode_eq {s t : State} (h : ResetEffect s t) : t.mode = .idle := by
  cases h <;> rfl

/-- Settles O54: each effect of a step by what it does to the mode; a reset never starts a session. -/
theorem modeChangesOnlyByStartStopOrReset : Obligations.ModeChangesOnlyByStartStopOrReset := by
  intro s t hs
  rcases step_effect hs with he | ⟨hr, ht⟩
  · rcases he.mode_eq with hm | ⟨hp, hi, -⟩ | ⟨hstop, hrun, ht⟩
    · exact ⟨fun hi hr => by simp [hm, hi] at hr, fun hr hi => by simp [hm, hr] at hi⟩
    · exact ⟨fun _ _ => hp, fun hr => by simp [hi] at hr⟩
    · exact ⟨fun _ hr => by simp [ht] at hr, fun _ _ => .inl ⟨hstop, hrun⟩⟩
  · exact ⟨fun _ hrun => by simp [ht.mode_eq] at hrun, fun _ _ => .inr hr⟩

end Sys2Proof.Machine

/-!
PROOFS of the family "exceptions": what raising an error does to the three registers that show it; and which event
sets each bit of `IRQ_STATUS` and of `ERROR`.
-/

namespace Sys2Proof.Machine

/-! ### Raising an error (R373, R374) -/

/-- A cause's mask in its place in `ERROR` is the bit of the cause's code (R39, R371). -/
theorem Cause.mask_in_errorReg (c : Cause) : 0#47 ++ c.mask ++ 0#1 = 1#64 <<< c.code := by cases c <;> rfl

/-- Raising sets the bit of the cause's code in `ERROR` (R373). -/
theorem State.raise_errorReg (s : State) (c : Cause) (loc : BitVec 8) (info : BitVec 32) :
    (s.raise c loc info).errorReg = s.errorReg ||| (1#64 <<< c.code) := by
  have hor : 0#47 ++ (s.error ||| c.mask) ++ 0#1 = (0#47 ++ s.error ++ 0#1) ||| (0#47 ++ c.mask ++ 0#1) := by
    simp only [BitVec.or_append, BitVec.or_self]
  exact hor.trans (congrArg (s.errorReg ||| ·) c.mask_in_errorReg)

/-- `ERROR` reads 0 when no error bit is set, and only then (R39). -/
theorem State.errorReg_eq_zero_iff (s : State) : s.errorReg = 0 ↔ s.error = 0 := by
  constructor
  · intro h
    refine BitVec.eq_of_getLsbD_eq fun n hn => ?_
    have hbit := s.errorReg_getLsbD (n + 1)
    simpa [h, hn] using hbit.symm
  · intro h
    rw [State.errorReg, h]
    rfl

/-- Settles O13: the record is captured when `ERROR` reads 0, and the other fields are not `State.raise`'s. -/
theorem raiseRecordsTheFirstError : Obligations.RaiseRecordsTheFirstError := by
  refine ⟨by decide, fun s c w i => ⟨s.raise_errorReg c w i, fun h => ?_, fun h => ?_, rfl, rfl⟩⟩
  · rw [State.errCauseReg, State.raise_errCause, if_pos (s.errorReg_eq_zero_iff.mp h)]
  · rw [State.errCauseReg, State.raise_errCause, if_neg (mt s.errorReg_eq_zero_iff.mpr h), State.errCauseReg]

/-! ### What sets an interrupt bit (R380) -/

/-- The bit of a cause in `ERROR` is its code's (R39, R371). -/
theorem State.errorReg_code (s : State) (c : Cause) :
    s.errorReg.getLsbD c.code = s.error.getLsbD (c.code - 1) := by
  have hc : 1 ≤ c.code ∧ c.code - 1 < 16 := by cases c <;> decide
  rw [State.errorReg_getLsbD, decide_eq_true hc, Bool.true_and]

/-- The source of an event bit of `IRQ_STATUS`: the end of a command, a block cycle, and the one that observes the
stop request (R380). `ERR`, bit 3, has the events of `RaisedBy`. -/
def EventSource (s : State) : Nat → Prop
  | 0 => EngineMoves s ∧ s.slot ≠ none
  | 1 => ∃ o rest, RunsBlockCycle s o rest
  | 2 => s.stopReq = true ∧ ∃ o rest, RunsBlockCycle s o rest
  | _ => False

/-- Against `s`, a bit of `IRQ_STATUS` or of `ERROR` that is set in these values and not in `s` has its event coming
next in `s`. -/
structure BitsHaveEvents (s : State) (irq : BitVec 4) (error : BitVec 16) : Prop where
  events : ∀ k, k < 3 → s.irqStatus.getLsbD k = false → irq.getLsbD k = true → EventSource s k
  line : s.irqStatus.getLsbD 3 = false → irq.getLsbD 3 = true →
    ∃ c, RaisedBy s c ∧ error.getLsbD (c.code - 1) = true
  rises : ∀ c : Cause, s.error.getLsbD (c.code - 1) = false → error.getLsbD (c.code - 1) = true → RaisedBy s c

/-- Bits that only fall need no event. -/
theorem BitsHaveEvents.of_falling {s : State} {irq : BitVec 4} {error : BitVec 16}
    (hi : ∀ k, irq.getLsbD k = true → s.irqStatus.getLsbD k = true)
    (he : ∀ n, error.getLsbD n = true → s.error.getLsbD n = true) : BitsHaveEvents s irq error where
  events k _ hs ht := (Bool.false_ne_true (hs.symm.trans (hi k ht))).elim
  line hs ht := (Bool.false_ne_true (hs.symm.trans (hi 3 ht))).elim
  rises _ hs ht := (Bool.false_ne_true (hs.symm.trans (he _ ht))).elim

/-- Raising only causes whose event comes next sets no event bit, and `ERR` with such a cause. -/
theorem BitsHaveEvents.of_raises {s w : State} (h : RaisesOnly (RaisedBy s) s.popped w) :
    BitsHaveEvents s w.irqStatus w.error where
  events k hk hs ht := (Bool.false_ne_true (hs.symm.trans ((h.events k hk).symm.trans ht))).elim
  line := h.line
  rises := h.rises

/-- Setting an event bit whose source comes next (R380). -/
theorem BitsHaveEvents.set {s : State} {irq : BitVec 4} {error : BitVec 16} (h : BitsHaveEvents s irq error) {k : Nat}
    (hk : EventSource s k) : BitsHaveEvents s (irq ||| BitVec.twoPow 4 k) error := by
  have hbit : ∀ j, (irq ||| BitVec.twoPow 4 k).getLsbD j = true → irq.getLsbD j = true ∨ j = k := by
    intro j hj
    rw [BitVec.getLsbD_or, Bool.or_eq_true, BitVec.getLsbD_twoPow, Bool.and_eq_true] at hj
    exact hj.imp id fun hjk => (of_decide_eq_true hjk.2).symm
  refine ⟨fun j hj hs ht => ?_, fun hs ht => ?_, h.rises⟩
  · rcases hbit j ht with hirq | rfl
    · exact h.events j hj hs hirq
    · exact hk
  · rcases hbit 3 ht with hirq | rfl
    · exact h.line hs hirq
    · exact hk.elim

/-! ### Each effect of a step raises what its event can raise (R371) -/

/-- A block run by PROCESS raises what the block raises (R181). -/
theorem RaisesOnly.processBlock {P : Cause → Prop} (s : State) (n : Nat) (dyn : Bool)
    (h12 : dyn = true → P .dynRange) (h13 : P .nonFinite) : RaisesOnly P s (s.processBlock n dyn) :=
  (RaisesOnly.runBlock s dyn (s.memWords inBase n) h12 h13).trans
    (.of_eq (by simp [State.processBlock]) (by simp [State.processBlock]))

/-- A performed command raises only what the table of R371 has it raise. -/
theorem CommandEffect.raises {s u : State} {i : Instr} (hp : Performs s i) (hu : CommandEffect s.popped i u) :
    RaisesOnly (RaisedBy s) s.popped u := by
  cases hu with
  | rejected hv => exact .raise _ _ _ _ ⟨hp, fun hc => Option.some_ne_none _ (hv.symm.trans hc)⟩
  | startRefused hm => exact .raise _ _ _ _ ⟨hm, hp⟩
  | flushRefused mask hm => exact .raise _ _ _ _ ⟨hm, .inl ⟨mask, hp⟩⟩
  | processRefused n dyn hm => exact .raise _ _ _ _ ⟨hm, .inr ⟨n, dyn, hp⟩⟩
  | processBadLength n dyn hm hn => exact .raise _ _ _ _ ⟨hm, n, dyn, hp, hn⟩
  | processed n dyn hm h1 h2 =>
    have hrun : RunsProcess s dyn := ⟨hm, n, hp, h1, h2⟩
    exact .processBlock _ _ _ (fun hdyn => .inr (hdyn ▸ hrun)) (.inr ⟨dyn, hrun⟩)
  | nop | applied | started | stopRequested | resultDropped | flushed | peakCleared => exact .of_eq rfl rfl

/-- A refused access has the cause its address gives it (R376). -/
theorem raisedBy_of_access_refused {s : State} {denied : Item → Bool} {a : Addr} {c : Cause}
    (h : access s.params denied a = .refused c) (ht : Transacts s a)
    (hd : ∀ i : Item, i.exists_ s.params → i.addr = a.toNat → denied i = true → RaisedBy s .accessDenied) :
    RaisedBy s c := by
  rcases access_refused _ _ _ _ h with ⟨rfl, hlow⟩ | ⟨rfl, hlow, hnone⟩ | ⟨rfl, hlow, i, hi, hden⟩
  · exact ⟨a, ht, mt (low_bits_eq_zero_iff a).mpr hlow⟩
  · refine ⟨a, ht, (low_bits_eq_zero_iff a).mp hlow, fun i hex haddr => ?_⟩
    rw [← haddr, itemAt_addr s.params i hex] at hnone
    cases hnone
  · obtain ⟨hex, haddr⟩ := exists_and_addr_of_itemAt ((low_bits_eq_zero_iff a).mp hlow) hi
    exact hd i hex haddr hden

/-- The cause of a refused read (R171). -/
theorem raisedBy_of_readAccess {s : State} {a : Addr} {c : Cause} (hi : HostIssues s (.rd64 a))
    (ha : s.readAccess a = .refused c) : RaisedBy s c :=
  raisedBy_of_access_refused ha (.inl hi) fun i hex haddr hden =>
    ⟨i, a, hex, haddr, .inl ⟨(i.readDenied_eq_true_iff _).mp hden, hi⟩⟩

/-- The cause of a refused write (R172). -/
theorem raisedBy_of_writeAccess {s : State} {a : Addr} {v : Word} {c : Cause} (hi : HostIssues s (.wr64 a v))
    (ha : s.writeAccess a = .refused c) : RaisedBy s c :=
  raisedBy_of_access_refused ha (.inr ⟨v, hi⟩) fun i hex haddr hden =>
    ⟨i, a, hex, haddr, .inr ⟨(i.not_mayWrite_iff _).mp hden, v, hi⟩⟩

/-- A write to `CMD` that is no reset raises cause 4 when the slot is full (R173). -/
theorem RaisesOnly.writeCmd {P : Cause → Prop} (s : State) {v : Word} (hv : v ≠ 0x0000000000000001#64)
    (h4 : s.slot ≠ none → P .cmdBusy) : RaisesOnly P s (s.writeCmd v) := by
  rw [State.writeCmd, if_neg hv]
  split
  · rename_i hs
    exact .raise _ _ _ _ (h4 (Option.isSome_iff_ne_none.mp hs))
  · exact .of_eq rfl rfl

/-- A write to `BLOCK_LEN` raises cause 16 when bits 15:0 are no legal length (R185). -/
theorem RaisesOnly.writeBlockLen {P : Cause → Prop} (s : State) (v : Word)
    (h16 : v.toNat % 65536 < 1 ∨ s.params.nMax < v.toNat % 65536 → P .regValue) :
    RaisesOnly P s (s.writeBlockLen v) := by
  have hlow : (v.extractLsb' 0 16).toNat = v.toNat % 65536 := by simp
  simp only [State.writeBlockLen]
  split
  · exact .of_eq rfl rfl
  · exact .raise _ _ _ _ (h16 (by omega))

/-- `BLOCK_LEN` stands at `0x40` only (R43). -/
theorem addr_eq_of_itemAt_blockLen {p : Params} {a : Addr} (h : itemAt p a.toNat = some .blockLen) : a = 0x00000040 :=
  BitVec.eq_of_toNat_eq (by simpa [controlMap] using mem_controlMap_of_itemAt h rfl)

/-- A permitted write clears sticky bits (R183, R184), or raises what the table of R371 has its item raise. -/
theorem BitsHaveEvents.of_written {s : State} {a : Addr} {v : Word} {it : Item} (hi : HostIssues s (.wr64 a v))
    (hm : itemAt s.params a.toNat = some it) (hd : (it.readOnly || it.writeDenied s.mode) = false)
    (hn : it = .cmd → v ≠ 0x0000000000000001#64) :
    BitsHaveEvents s (s.popped.writeItem it v).irqStatus (s.popped.writeItem it v).error := by
  cases it with
  | error =>
    refine .of_falling (fun _ => id) fun n hbit => ?_
    rw [State.writeItem, State.clearError_error, BitVec.getLsbD_and, Bool.and_eq_true] at hbit
    exact hbit.1
  | irqStatus =>
    refine .of_falling (fun n hbit => ?_) fun _ => id
    rw [State.writeItem, State.clearIrq_irqStatus, BitVec.getLsbD_and, Bool.and_eq_true] at hbit
    exact hbit.1
  | cmd =>
    rw [addr_eq_of_itemAt_cmd hm] at hi
    exact .of_raises (.writeCmd _ (hn rfl) fun hs => ⟨hs, v, hn rfl, hi⟩)
  | blockLen =>
    rw [addr_eq_of_itemAt_blockLen hm] at hi
    have hidle : s.mode = .idle := by
      by_contra hrun
      exact Bool.false_ne_true (hd.symm.trans ((Item.not_mayWrite_iff .blockLen s.mode).mpr hrun))
    exact .of_raises (.writeBlockLen _ v fun hv => ⟨hidle, v, hi, hv⟩)
  | delay st k =>
    refine .of_raises (.of_eq ?_ ?_) <;> simp only [State.writeItem, State.writeDelay] <;> split <;> rfl
  | _ => exact .of_raises (.of_eq rfl rfl)

/-- The bits after a block cycle: the causes of R371 it can raise, then its event bits (R333, R337). -/
theorem BitsHaveEvents.of_cycled {s : State} {o : Offer} {rest : List Offer} (h : RunsBlockCycle s o rest) :
    BitsHaveEvents s ((s.popped.consume o rest).blockCycle o).irqStatus
      ((s.popped.consume o rest).blockCycle o).error := by
  obtain ⟨-, -, -, -, hwf⟩ := id h
  have hrun : ∃ o rest, RunsBlockCycle s o rest := ⟨o, rest, h⟩
  have hlen : ((s.popped.consume o rest).offerSamples o).length = s.blockLen.toNat :=
    (s.popped.consume o rest).offerSamples_length o hwf
  obtain ⟨w, hw, herr, hirq⟩ := (s.popped.consume o rest).blockCycle_raises (P := RaisedBy s) o
    (fun ho => ⟨o, rest, h, ho⟩) (fun ho => ⟨o, rest, h, ho⟩) (fun ho => ⟨o, rest, h, ho⟩) (.inl hrun) (.inl hrun)
    (fun hc => ⟨hrun, hlen ▸ hc⟩)
  have hbits : BitsHaveEvents s w.irqStatus w.error :=
    .of_raises (RaisesOnly.trans (t := s.popped.consume o rest) (.of_eq rfl rfl) hw)
  have hdone := hbits.set (k := 1) hrun
  rw [herr, hirq]
  split
  · rename_i hstop
    exact hdone.set (k := 2) ⟨hstop, hrun⟩
  · exact hdone

/-- Every bit a step sets that is no reset has its event. -/
theorem StepEffect.bits {s t : State} (he : StepEffect s t) : BitsHaveEvents s t.irqStatus t.error := by
  cases he with
  | performed hp hu =>
    obtain ⟨hmoves, v, hs, -⟩ := id hp
    exact (BitsHaveEvents.of_raises (hu.raises hp)).set (k := 0) ⟨hmoves, by simp [hs]⟩
  | @illegal v e hmoves hs hd =>
    have hcause : RaisedBy s .cmdIllegal := ⟨hmoves, v, hs, by simp [hd]⟩
    exact (BitsHaveEvents.of_raises (.raise s.popped _ 0 (v.extractLsb' 0 32) hcause)).set (k := 0)
      ⟨hmoves, by simp [hs]⟩
  | cycled h => exact .of_cycled h
  | @readRefused a c hi ha =>
    exact .of_raises (w := s.popped.raise c 0 a) (.raise _ _ _ _ (raisedBy_of_readAccess hi ha))
  | writeRefused hi ha => exact .of_raises (.raise _ _ _ _ (raisedBy_of_writeAccess hi ha))
  | written hi hm hd hn => exact .of_written hi hm hd hn
  | offerDropped | engineRests | offerConsumed | offerWaits | read => exact .of_falling (fun _ => id) fun _ => id

/-- A reset clears every bit (R411). -/
theorem ResetEffect.bits {s t : State} (h : ResetEffect s t) : BitsHaveEvents s t.irqStatus t.error := by
  have hzero : t.irqStatus = 0 ∧ t.error = 0 := by cases h <;> exact ⟨rfl, rfl⟩
  rw [hzero.1, hzero.2]
  exact .of_falling (by simp) (by simp)

/-- Settles O60: the bits of the state after by the effect of the step, and the observed stop ends in IDLE. -/
theorem interruptBitsAreSetByTheirEvents : Obligations.InterruptBitsAreSetByTheirEvents := by
  intro s t hs
  have hbits : BitsHaveEvents s t.irqStatus t.error := by
    rcases step_effect hs with he | ⟨-, hr⟩
    · exact he.bits
    · exact hr.bits
  simp only [State.errorReg_code]
  refine ⟨hbits.events 0 (by decide), hbits.events 1 (by decide), fun h0 h1 => ?_, hbits.line, hbits.rises⟩
  obtain ⟨hstop, o, rest, hrun⟩ := hbits.events 2 (by decide) h0 h1
  rw [step_of_runsBlockCycle hrun] at hs
  cases hs
  exact ⟨hstop, ((s.popped.consume o rest).blockCycle_mode o).trans (if_pos hstop), o, rest, hrun⟩

end Sys2Proof.Machine

/-!
PROOFS of the family "reset and hazards": the one event that has no move, and what each of the two resets leaves.
-/

namespace Sys2Proof

/-- What an offer that breaks the Transport's contract looks like: it claims samples, of another length (R331). -/
theorem Offer.wellFormed_eq_false_iff (o : Offer) (n : Nat) :
    o.wellFormed n = false ↔ o.novalid = false ∧ o.samples.length ≠ n := by simp [Offer.wellFormed]

end Sys2Proof

namespace Sys2Proof.Machine

/-! ### The offer that has no move (R331, R424) -/

/-- An offer made with another length has no move. -/
theorem step_of_wrong_offer {s : State} {o : Offer} (h : s.schedule.head? = some (.offer o))
    (hwf : o.wellFormed s.blockLen.toNat = false) : step s = .refused .offerLength := by
  obtain ⟨rest, hs⟩ := List.head?_eq_some_iff.mp h
  rw [step_offer s o rest hs]
  exact admitOffer_refused _ o _ hwf

/-- A step the Engine takes has a next state, unless its block cycle meets an offer of another length. -/
theorem step_of_engineMoves {s : State} (hm : EngineMoves s) :
    (∃ t, step s = .next t) ∨
      (step s = .refused .offerLength ∧ s.slot = none ∧ s.mode = .running ∧
        ∃ o, s.offers.head? = some o ∧ o.wellFormed s.blockLen.toNat = false) := by
  rw [step_moves s hm]
  refine (engineStep_cases s.popped).imp id ?_
  rintro ⟨hstep, hslot, hmode, o, rest, ho, hwf⟩
  exact ⟨hstep, hslot, hmode, o, List.head?_eq_some_iff.mpr ⟨rest, ho⟩, hwf⟩

/-- The external reset input does its reset (R410). -/
theorem step_of_powerOn {s : State} (h : s.schedule.head? = some .powerOn) :
    step s = .next s.popped.powerOnReset := by
  obtain ⟨rest, hs⟩ := List.head?_eq_some_iff.mp h
  rw [step_powerOn s rest hs, State.popped, hs]
  rfl

/-- Settles O9: the Engine's step, else the event that comes next, of which only an offer can be refused. -/
theorem onlyAWrongOfferHasNoMove : Obligations.OnlyAWrongOfferHasNoMove := by
  intro s
  by_cases hm : EngineMoves s
  · refine (step_of_engineMoves hm).imp id ?_
    rintro ⟨hstep, hslot, hmode, o, ho, hwf⟩
    obtain ⟨hvalid, hlen⟩ := (o.wellFormed_eq_false_iff _).mp hwf
    exact ⟨hstep, o, hvalid, hlen, .inr ⟨hm, hslot, hmode, ho⟩⟩
  · cases hs : s.schedule with
    | nil => exact absurd (.inl hs) hm
    | cons e rest =>
      have hhead : s.schedule.head? = some e := List.head?_eq_some_iff.mpr ⟨rest, hs⟩
      cases e with
      | engine => exact absurd (.inr hhead) hm
      | host header data =>
        rw [step_host s header data rest hs]
        exact .inl (exec_next _ _)
      | powerOn => exact .inl ⟨_, step_of_powerOn hhead⟩
      | offer o =>
        cases hwf : o.wellFormed s.blockLen.toNat with
        | true => exact .inl ⟨_, step_of_offer hhead hwf⟩
        | false =>
          obtain ⟨hvalid, hlen⟩ := (o.wellFormed_eq_false_iff _).mp hwf
          exact .inr ⟨step_of_wrong_offer hhead hwf, o, hvalid, hlen, .inl rfl⟩

/-! ### What a reset leaves (R410 to R412) -/

/-- Every coefficient of a FIR stage at reset but the first is `+0.0`, and there is none beyond `T_MAX` (R50). -/
theorem FirCfg.reset_getD_of_pos (p : Params) {k : Nat} (hk : 1 ≤ k) : (FirCfg.reset p).h.getD k 0 = f64Zero := by
  obtain ⟨j, rfl⟩ := Nat.exists_eq_add_of_le' hk
  exact List.getElem?_getD_replicate_default_eq (d := f64Zero) (p.tMax - 1) j

/-- `STATUS`, `ERROR` and `ERR_CAUSE` read 0 after RESET (R411). -/
theorem State.softReset_reads_zero (s : State) :
    s.softReset.statusReg = 0 ∧ s.softReset.errorReg = 0 ∧ s.softReset.errCauseReg = 0 := by
  refine ⟨?_, s.softReset.errorReg_eq_zero_iff.mpr rfl, ?_⟩
  · have hline : s.softReset.irqLine = false := by simp [State.irqLine]
    rw [State.statusReg, hline, State.softReset_slot, State.softReset_stopReq, State.softReset_mode]
    decide
  · rw [State.errCauseReg, State.softReset_errCause]
    decide

/-- Settles O10: the fields of `State.softReset`, the reset configuration coefficient by coefficient. -/
theorem resetCommandRestoresResetValues : Obligations.ResetCommandRestoresResetValues := by
  intro s
  obtain ⟨hstatus, herror, hcause⟩ := s.softReset_reads_zero
  refine ⟨s.softReset, rfl, rfl, hstatus, herror, hcause, rfl, rfl, resetBlockLen_toNat s.params,
    rfl, rfl, rfl, rfl, fun c hc => ?_, rfl, rfl, fun q hq => ?_, fun a => State.memByte_congr rfl rfl a,
    rfl, rfl, rfl, rfl, rfl, rfl⟩
  · obtain rfl : c = Cfg.reset s.params := by simpa using hc
    refine ⟨fun f hf => ?_, fun b hb => ?_, rfl, rfl, rfl⟩
    · obtain rfl : f = FirCfg.reset s.params := by simpa [Cfg.reset] using hf
      exact ⟨rfl, FirCfg.reset_length s.params, rfl, fun k hk => FirCfg.reset_getD_of_pos s.params hk⟩
    · obtain rfl : b = BiquadCfg.reset := by simpa [Cfg.reset] using hb
      exact ⟨rfl, rfl, rfl, rfl, rfl⟩
  · obtain rfl : q = BqState.zero := by simpa [FilterState.reset] using hq
    exact ⟨rfl, rfl⟩

/-- After the external reset each byte of the sample memories is the new draw (R412). -/
@[simp] theorem State.powerOnReset_memByte (s : State) (a : Nat) :
    s.powerOnReset.memByte a = Config.powerOnByte (s.powerOns + 1) a := rfl

/-- Settles O11: the external reset is RESET but for the memories and the number of their draw. -/
theorem powerOnResetRedrawsTheMemories : Obligations.PowerOnResetRedrawsTheMemories := by
  intro s h
  exact ⟨s.popped.powerOnReset, s.popped.softReset, step_of_powerOn h, rfl, rfl, s.popped.powerOnReset_memByte⟩

end Sys2Proof.Machine
